-- ==== Sys2Proof/Word.lean ====
section
/-! DEFINITION. The words, numbers and sets of the Hobwin 2640: a word is 32 bits (00_scope, Conventions), and
master, object and window numbers are numbers below 8, 64 and 16 (R1, R90, R126). -/

namespace Sys2Proof

/-- A word of the register window: 32 bits. -/
abbrev Word := BitVec 32

/-- A master number, 0 to 7, as driven on MID2-MID0 (R90, R155). -/
abbrev Master := Fin 8

/-- An object number, 0 to 63 (R1). -/
abbrev ObjNum := Fin 64

/-- A guard window number, 0 to 15 (R126). -/
abbrev WindowNum := Fin 16

/-- A word address of the bus, A31-A2 (R130). -/
abbrev WordAddr := BitVec 30

/-- A granule number, a bus address divided by 4096 (R126). -/
abbrev Granule := BitVec 20

/-- A word within the window, A7-A2, which is the offset divided by four (R155). -/
abbrev WindowOffset := BitVec 6

/-- A set of masters, bit n standing for master n, as the object view reports it (Table 10-5). -/
abbrev MasterSet := BitVec 8

end Sys2Proof
end

