-- ==== Sys2Proof/Syntax.lean ====
section
/-! DEFINITION. The commands of the part: one constructor per row of spec/opcode_table.json. A command-port
write carries the writing master and the port word (R160). -/

namespace Sys2Proof

/-- The direction of a bus access, taken from WR (R130). -/
inductive Direction where
  | read
  | write
  deriving DecidableEq, Repr

/-- A window read: the master that makes it and the word that A7-A2 select; the byte enables play no part (R155,
R156). -/
structure WindowRead where
  master : Master
  offset : WindowOffset
  deriving DecidableEq, Repr

/-- One command or event of the part; `m` is the master that makes the access, `w` the word it writes. -/
inductive Instr where
  | claim (m : Master) (w : Word)
  | release (m : Master) (w : Word)
  | withdraw (m : Master) (w : Word)
  | watch (m : Master) (w : Word)
  | unwatch (m : Master) (w : Word)
  | ackEvent (m : Master) (w : Word)
  | clearOverflow (m : Master) (w : Word)
  | setAttention (m : Master) (w : Word)
  | resetSelf (m : Master) (w : Word)
  | configObject (m : Master) (w : Word)
  | online (m : Master) (w : Word)
  | offline (m : Master) (w : Word)
  | revoke (m : Master) (w : Word)
  | setQuota (m : Master) (w : Word)
  /-- A write of `w` to the SET_STANDING port whose action is not BAR (R100, R101; log 8). -/
  | readmit (m : Master) (w : Word)
  /-- A write of `w` to the SET_STANDING port whose action is not READMIT (R100, R102; log 8). -/
  | bar (m : Master) (w : Word)
  | setSupervisor (m : Master) (w : Word)
  | clearMaster (m : Master) (w : Word)
  | configGuard (m : Master) (w : Word)
  | ackLog (m : Master) (w : Word)
  | setTimeBase (m : Master) (w : Word)
  /-- A window read: READ_VIEW_0 is the read at VIEW_0's offset, 20h; the reads at the other offsets have no row of
  their own (R155, R163; log 17). -/
  | readView0 (r : WindowRead)
  /-- A window write with the byte enables BE3-BE0 in bits 3 to 0 of `byteEnables` (R156, R157). -/
  | registerWrite (m : Master) (offset : WindowOffset) (byteEnables : BitVec 4) (data : Word)
  | observation (m : Master) (addr : WordAddr) (dir : Direction)
  | reset
  | timeUnitEnd
  | deadline (o : ObjNum)
  | settleExpiry (o : ObjNum)
  /-- The expiry of the entry of master `m` in the line of object `o`, the one such entry there is (R4). -/
  | waitLimitExpiry (o : ObjNum) (m : Master)
  | tenureReachesCeiling (o : ObjNum)
  | tenureReachesFloor (o : ObjNum)
  | rclkPeriod
  | resetRelease
  deriving DecidableEq, Repr

end Sys2Proof
end

