-- ==== Sys2Proof/Machine/State.lean ====
section
/-! DEFINITION. The state of the part: every record, banked register, queue, log, count and pin the spec names
(INVENTORY.md lists them), the queue of waiting commands, and State.reset. -/

namespace Sys2Proof.Machine

/-! ### Objects and waiter entries (Chapters 1 to 4) -/

/-- The five states of an object (R8). -/
inductive ObjState where
  | offline
  | free
  | heldExclusive
  | heldShared
  | settling
  deriving DecidableEq, Repr

/-- The class of an object (R2). -/
inductive ObjClass where
  | exclusiveOnly
  | shareable
  deriving DecidableEq, Repr

/-- The mode of a claim, an entry or a hold (R26). -/
inductive Mode where
  | exclusive
  | shared
  deriving DecidableEq, Repr

/-- Why a yield was asked (R6). -/
inductive YieldReason where
  | contention
  | ceiling
  deriving DecidableEq, Repr

/-- A yield that is pending (R6, R73). -/
structure YieldPending where
  remaining : BitVec 8
  reason : YieldReason
  deriving DecidableEq, Repr

/-- A waiter entry in use (R48). Its object is the object in whose line it stands, so the line holds it (log 13).
`due` is the model's own: the fall from 1 of its wait remaining, owed for the TU just ended (log 3). -/
structure Entry where
  master : Master
  mode : Mode
  priority : BitVec 4
  waitRemaining : Option (BitVec 16)
  tag : BitVec 8
  due : Bool
  deriving DecidableEq, Repr

/-- The model's own: the counts of an object whose advance for the TU just ended has yet to be taken there (log 3). -/
structure Owed where
  settle : Bool
  yield : Bool
  tenure : Bool
  deriving DecidableEq, Repr

/-- Nothing is owed. -/
def Owed.none : Owed := { settle := false, yield := false, tenure := false }

/-- An object record (Table 1-1). -/
structure ObjectRec where
  state : ObjState
  objClass : ObjClass
  contentionYield : Bool
  floor : BitVec 8
  ceiling : BitVec 16
  allowance : BitVec 8
  settle : BitVec 8
  holders : MasterSet
  line : List Entry
  tenure : BitVec 16
  yieldPending : Option YieldPending
  settleRemaining : Option (BitVec 8)
  watchers : MasterSet
  grantCount : BitVec 16
  revokeCount : BitVec 8
  owed : Owed
  deriving DecidableEq, Repr

/-- An object record at power-on (Table 1-1). -/
def ObjectRec.reset : ObjectRec where
  state := .offline
  objClass := .exclusiveOnly
  contentionYield := false
  floor := 0
  ceiling := 0
  allowance := 16
  settle := 0
  holders := 0
  line := []
  tenure := 0
  yieldPending := none
  settleRemaining := none
  watchers := 0
  grantCount := 0
  revokeCount := 0
  owed := Owed.none

/-! ### Masters and events (Chapters 5 and 6) -/

/-- The standing of a master (Table 5-3). -/
inductive Standing where
  | good
  | warned
  | restricted
  | barred
  deriving DecidableEq, Repr

/-- Why a holder was removed (Table 6-1, REVOKED). -/
inductive RevokeCause where
  | deadline
  | supervisor
  | barred
  | offline
  deriving DecidableEq, Repr

/-- Why a wait ended (Table 6-1, WAIT_ENDED). -/
inductive WaitEndCause where
  | expired
  | offline
  | barred
  deriving DecidableEq, Repr

/-- The kind of an event record with the fields that kind uses (R111, Table 6-1). -/
inductive Notice where
  | granted (o : ObjNum) (mode : Mode) (tag : BitVec 8)
  | yieldAsked (o : ObjNum) (reason : YieldReason) (allowance : BitVec 8)
  | revoked (o : ObjNum) (cause : RevokeCause)
  | waitEnded (o : ObjNum) (cause : WaitEndCause)
  | freed (o : ObjNum)
  | watchEnded (o : ObjNum)
  | standing (now : Standing) (score : BitVec 8)
  | cleared (by_ : Master)
  /-- FAULT_NOTICE with detail DEADLINE: the faulting master and the object. -/
  | faultDeadline (faulting : Master) (o : ObjNum)
  /-- FAULT_NOTICE with detail BARRED: the faulting master, no object. -/
  | faultBarred (faulting : Master)
  | logPending
  deriving DecidableEq, Repr

/-- An event record: its sequence number and its kind with the kind's fields (R111). -/
structure EventRecord where
  seq : BitVec 8
  notice : Notice
  deriving DecidableEq, Repr

/-- A master record (Table 5-1). Waits held is derived from the lines (R49). -/
structure MasterRec where
  score : BitVec 8
  standing : Standing
  quota : BitVec 6
  supervisor : Bool
  attention : Bool
  overflow : Bool
  nextSeq : BitVec 8
  queue : List EventRecord
  deriving DecidableEq, Repr

/-- A master record at power-on, but for the supervisor attribute, which master 0 alone carries (Table 5-1). -/
def MasterRec.reset (supervisor : Bool) : MasterRec where
  score := 0
  standing := .good
  quota := 12
  supervisor := supervisor
  attention := false
  overflow := false
  nextSeq := 0
  queue := []

/-! ### Banked registers of the Bus Port (Chapters 2 and 10) -/

/-- The outcome of a command (R22). -/
inductive CmdOutcome where
  | none
  | done
  | granted
  | queued
  | refused
  deriving DecidableEq, Repr

/-- The nineteen reasons for refusal, in the order of Table 2-2 (R23). -/
inductive Reason where
  | badOperand
  | notPrivileged
  | barred
  | offline
  | holderSelf
  | alreadyWaiting
  | modeNotAllowed
  | busy
  | restricted
  | quota
  | poolEmpty
  | notHolder
  | notWaiting
  | notOffline
  | notHeld
  | alreadyOnline
  | lastSupervisor
  | queueEmpty
  | logEmpty
  deriving DecidableEq, Repr

/-- A result record (Table 2-1). -/
structure ResultRec where
  outcome : CmdOutcome
  reason : Option Reason
  echo : BitVec 6
  position : BitVec 4
  count : BitVec 7
  deriving DecidableEq, Repr

/-- The kinds of view (R162). -/
inductive ViewKind where
  | object
  | lineEntry
  | master
  | guardWindow
  deriving DecidableEq, Repr

/-- The VIEW_SELECT register (R162). -/
structure ViewSelect where
  kind : ViewKind
  index : BitVec 6
  position : BitVec 4
  deriving DecidableEq, Repr

/-- The four words of a snapshot (R163). -/
structure Snapshot where
  word0 : Word
  word1 : Word
  word2 : Word
  word3 : Word
  deriving DecidableEq, Repr

/-- The banked state of one master (Table 10-2). -/
structure PortRec where
  operandA : Word
  operandB : Word
  result : ResultRec
  viewSelect : ViewSelect
  snapshot : Snapshot
  deriving DecidableEq, Repr

/-- The banked state of a master at power-on (Table 10-2, Table 2-1). -/
def PortRec.reset : PortRec where
  operandA := 0
  operandB := 0
  result := { outcome := .none, reason := none, echo := 0, position := 0, count := 0 }
  viewSelect := { kind := .object, index := 0, position := 0 }
  snapshot := { word0 := 0, word1 := 0, word2 := 0, word3 := 0 }

/-! ### Guard windows and the violation log (Chapters 7 and 8) -/

/-- What a guard window asks of an access (R132, R133). -/
inductive GuardKind where
  | writeGuard
  | accessGuard
  deriving DecidableEq, Repr

/-- What a failing guard window does (R135). -/
inductive GuardAction where
  | log
  | deny
  deriving DecidableEq, Repr

/-- A guard window record (Table 7-1). -/
structure GuardWindow where
  enable : Bool
  base : Granule
  limit : Granule
  object : ObjNum
  kind : GuardKind
  action : GuardAction
  deriving DecidableEq, Repr

/-- A guard window at power-on (Table 7-1). -/
def GuardWindow.reset : GuardWindow where
  enable := false
  base := 0
  limit := 0
  object := 0
  kind := .writeGuard
  action := .log

/-- Why a check failed (R134). -/
inductive ViolationCause where
  | noHold
  | sharedWrite
  deriving DecidableEq, Repr

/-- A violation record (Table 8-1). -/
structure LogRecord where
  master : Master
  addr : WordAddr
  dir : Direction
  window : WindowNum
  object : ObjNum
  cause : ViolationCause
  objState : ObjState
  stamp : BitVec 24
  suppressed : BitVec 8
  deriving DecidableEq, Repr

/-! ### Time base (Chapter 9) -/

/-- Whether the time base runs (R149). -/
inductive RunState where
  | stopped
  | running
  deriving DecidableEq, Repr

/-- The state of the time base (Table 9-1). -/
structure TimeBase where
  runState : RunState
  divider : BitVec 16
  dividerInForce : BitVec 16
  periodCount : BitVec 16
  uptime : BitVec 32
  deriving DecidableEq, Repr

/-- The time base at power-on (Table 9-1). -/
def TimeBase.reset : TimeBase where
  runState := .stopped
  divider := 999
  dividerInForce := 999
  periodCount := 0
  uptime := 0

/-! ### The part -/

/-- The whole part. -/
structure State where
  objects : Vector ObjectRec 64
  masters : Vector MasterRec 8
  ports : Vector PortRec 8
  windows : Vector GuardWindow 16
  /-- The free count of the waiter pool (R47). -/
  poolFree : Nat
  /-- The violation log, oldest first (R140). -/
  log : List LogRecord
  timeBase : TimeBase
  /-- The RESET input is asserted (R155, R174). -/
  resetAsserted : Bool
  /-- ACK: asserted while the access last taken is an answered window access, until the next step (R155; log 2). -/
  ack : Bool
  /-- DENY: asserted while the access last taken is a denied observed access, until the next step (R136; log 2). -/
  deny : Bool
  /-- The word the part drives on D31-D0, none but while the access last taken is an answered window read (section
  10.8; log 2). -/
  dataOut : Option Word
  /-- The model's own counter of uses of the free order of expiries (log 4). -/
  choices : Nat
  /-- The commands that wait, first in first out. -/
  pending : List Instr
  deriving DecidableEq, Repr

/-- No command of this part stops it: a bad command is REFUSED in RESULT and the part goes on (R22), so there
is no fault to raise (safe: nothing is claimed of a fault; log 19). -/
inductive Fault where
  deriving DecidableEq, Repr

/-- Reasons for which the model has no meaning for a command. -/
inductive Refusal where
  /-- Raised by Dispatch for a row without a meaning; no row is without one (safe: the model would stop; log 19). -/
  | notModelled (mnemonic : String)
  deriving DecidableEq, Repr

/-- The part after the RESET input has been released: every record at its power-on value (R9, R90, R126, R140,
R149, R158, R174), no command waiting (log 1). -/
def State.reset : State where
  objects := Vector.replicate 64 ObjectRec.reset
  masters := (Vector.replicate 8 (MasterRec.reset false)).set 0 (MasterRec.reset true)
  ports := Vector.replicate 8 PortRec.reset
  windows := Vector.replicate 16 GuardWindow.reset
  poolFree := 96
  log := []
  timeBase := TimeBase.reset
  resetAsserted := false
  ack := false
  deny := false
  dataOut := none
  choices := 0
  pending := []

end Sys2Proof.Machine
end

