-- ==== Sys2Proof/Machine/Ops.lean ====
section
/-! DEFINITION. The named operations over records: sets of masters, reading and changing one record, posting an
event, writing a result record, and the levels of the bus pins at an access and between accesses. -/

namespace Sys2Proof.Machine

/-! ### Numbers and sets of masters -/

/-- The eight masters in ascending order (R90). -/
def allMasters : List Master := [0, 1, 2, 3, 4, 5, 6, 7]

/-- The 64 objects in ascending order (R1). -/
def allObjects : List ObjNum := List.finRange 64

/-- The 16 guard windows in ascending order (R126). -/
def allWindows : List WindowNum := List.finRange 16

/-- The set with the one member `m`. -/
def single (m : Master) : MasterSet := 1#8 <<< m.val

/-- `m` is a member of the set. -/
def isMember (ms : MasterSet) (m : Master) : Bool := ms.getLsbD m.val

/-- The set with `m` added. -/
def addMember (ms : MasterSet) (m : Master) : MasterSet := ms ||| single m

/-- The set without `m`. -/
def removeMember (ms : MasterSet) (m : Master) : MasterSet := ms &&& ~~~(single m)

/-- The members in ascending order. -/
def members (ms : MasterSet) : List Master := allMasters.filter (isMember ms)

/-- The set of the masters in a list. -/
def setOf (l : List Master) : MasterSet := l.foldl addMember 0

/-! ### Reading and changing one record -/

/-- The record of object `o` (R1). -/
def State.obj (s : State) (o : ObjNum) : ObjectRec := s.objects[o.val]

/-- Change the record of object `o`. -/
def State.modObj (s : State) (o : ObjNum) (f : ObjectRec → ObjectRec) : State :=
  { s with objects := s.objects.set o.val (f (s.obj o)) }

/-- The record of master `m` (R90). -/
def State.mst (s : State) (m : Master) : MasterRec := s.masters[m.val]

/-- Change the record of master `m`. -/
def State.modMst (s : State) (m : Master) (f : MasterRec → MasterRec) : State :=
  { s with masters := s.masters.set m.val (f (s.mst m)) }

/-- The banked registers of master `m` (R158). -/
def State.port (s : State) (m : Master) : PortRec := s.ports[m.val]

/-- Change the banked registers of master `m`; no other master's copy is reached (R158). -/
def State.modPort (s : State) (m : Master) (f : PortRec → PortRec) : State :=
  { s with ports := s.ports.set m.val (f (s.port m)) }

/-- The record of guard window `i` (R126). -/
def State.win (s : State) (i : WindowNum) : GuardWindow := s.windows[i.val]

/-- Replace the record of guard window `i` (R128). -/
def State.setWin (s : State) (i : WindowNum) (g : GuardWindow) : State :=
  { s with windows := s.windows.set i.val g }

/-- Apply a function to every element of a vector. -/
def mapVector {α : Type} {n : Nat} (f : α → α) (v : Vector α n) : Vector α n :=
  ⟨(v.toList.map f).toArray, by simp⟩

/-! ### Posting events (Chapter 6) -/

/-- The length of an event queue (R110). -/
def queueCapacity : Nat := 8

/-- Post a record to a master: it takes the next sequence, which rises by one; it is stored if there is room,
and otherwise discarded with the overflow flag set (R113, R114). -/
def MasterRec.post (r : MasterRec) (n : Notice) : MasterRec :=
  if r.queue.length < queueCapacity then
    { r with nextSeq := r.nextSeq + 1, queue := r.queue ++ [{ seq := r.nextSeq, notice := n }] }
  else
    { r with nextSeq := r.nextSeq + 1, overflow := true }

/-- Post a record to master `m` (R113). -/
def State.post (s : State) (m : Master) (n : Notice) : State := s.modMst m fun r => r.post n

/-- Post a record to each master of a list, in its order (R113). -/
def State.postEach (s : State) (ms : List Master) (n : Notice) : State :=
  ms.foldl (fun s m => s.post m n) s

/-- The masters that carry the supervisor attribute now, ascending (R104). -/
def State.supervisors (s : State) : List Master := allMasters.filter fun m => (s.mst m).supervisor

/-- Post a notice to every supervisor (R104). -/
def State.postSupervisors (s : State) (n : Notice) : State := s.postEach s.supervisors n

/-! ### The waiter pool (Chapter 3) -/

/-- The number of waiter entries of the pool (R47). -/
def poolSize : Nat := 96

/-- Entries return to the pool (R62, step 3). -/
def State.returnEntries (s : State) (n : Nat) : State := { s with poolFree := s.poolFree + n }

/-- One free entry is taken from the pool (R33, step 1). -/
def State.takeEntry (s : State) : State := { s with poolFree := s.poolFree - 1 }

/-- The waits held of `m`: the entries in use whose master is `m` (R49). -/
def State.waitsHeld (s : State) (m : Master) : Nat :=
  (allObjects.map fun o => (s.obj o).line.countP fun e => e.master == m).sum

/-- `m` has an entry in the line of `o`. -/
def State.isWaiting (s : State) (m : Master) (o : ObjNum) : Bool :=
  (s.obj o).line.any fun e => e.master == m

/-- The removal of `m`'s entry from the line of `o`: those behind move up, the entry and its timer go, and it
returns to the pool (R62). -/
def State.removeWaiter (s : State) (o : ObjNum) (m : Master) : State :=
  (s.modObj o fun r => { r with line := r.line.filter fun e => e.master != m }).returnEntries
    ((s.obj o).line.countP fun e => e.master == m)

/-- Where a new entry goes: behind every entry of greater or equal priority (R50). -/
def insertEntry (e : Entry) : List Entry → List Entry
  | [] => [e]
  | x :: xs => if x.priority < e.priority then e :: x :: xs else x :: insertEntry e xs

/-- The position of a new entry of priority `p`, counted from 1 at the head (R50). -/
def insertPosition (p : BitVec 4) : List Entry → Nat
  | [] => 1
  | x :: xs => if x.priority < p then 1 else insertPosition p xs + 1

/-! ### Result records (Chapter 2) -/

/-- A command overwrites the whole of its writer's result record (R21). -/
def State.answer (s : State) (m : Master) (r : ResultRec) : State :=
  s.modPort m fun p => { p with result := r }

/-- The result of a command that succeeded (R22). -/
def ResultRec.done (echo : BitVec 6) : ResultRec :=
  { outcome := .done, reason := none, echo := echo, position := 0, count := 0 }

/-- The result of a clearing, with its count (R107, R108). -/
def ResultRec.doneCount (echo : BitVec 6) (count : Nat) : ResultRec :=
  { outcome := .done, reason := none, echo := echo, position := 0, count := BitVec.ofNat 7 count }

/-- The result of a claim granted at the write (R22). -/
def ResultRec.granted (echo : BitVec 6) : ResultRec :=
  { outcome := .granted, reason := none, echo := echo, position := 0, count := 0 }

/-- The result of a claim that was queued (R22). -/
def ResultRec.queued (echo : BitVec 6) (position : Nat) : ResultRec :=
  { outcome := .queued, reason := none, echo := echo, position := BitVec.ofNat 4 position, count := 0 }

/-- The result of a refused command (R22). -/
def ResultRec.refused (reason : Reason) (echo : BitVec 6) : ResultRec :=
  { outcome := .refused, reason := some reason, echo := echo, position := 0, count := 0 }

/-- A refused command changes its writer's result record and nothing else (R22). -/
def State.refuse (s : State) (m : Master) (reason : Reason) (echo : BitVec 6) : State :=
  s.answer m (ResultRec.refused reason echo)

/-- The reason of the first check of a check order that fails (R22). -/
def firstFailing : List (Bool × Reason) → Option Reason
  | [] => none
  | (fails, reason) :: rest => if fails then some reason else firstFailing rest

/-- A command with its check order: refused with the first reason that fails, else carried out (R22). -/
def State.checked (s : State) (m : Master) (echo : BitVec 6) (checks : List (Bool × Reason))
    (carryOut : State → State) : State :=
  match firstFailing checks with
  | some reason => s.refuse m reason echo
  | none => carryOut s

/-! ### The levels of ACK, DENY and the data lines (R136, R155, R171; log 2) -/

/-- ACK and DENY deasserted and no data driven: the levels while the bus is idle, while RESET is asserted, and at the
start of an observed access (R136, R155, R171, section 10.8). -/
def State.deasserted (s : State) : State := { s with ack := false, deny := false, dataOut := none }

/-- A window write is acknowledged, with DENY deasserted throughout it (R136, R155). -/
def State.acknowledged (s : State) : State := { s with ack := true, deny := false, dataOut := none }

/-- A window access as a step, a write or a read: not answered while RESET is asserted (R155, R174; log 10), else
acknowledged and carried out whole (R25). -/
def answerWindow (s : State) (carryOut : State → State) : Host.Outcome State Fault Refusal :=
  if s.resetAsserted then .next s.deasserted else .next (carryOut s.acknowledged)

/-- An event that is no access, as a step: the bus is idle, so a DENY of the access before it is not latched (R136,
R171), and the event is carried out whole. -/
def offBus (s : State) (carryOut : State → State) : Host.Outcome State Fault Refusal := .next (carryOut s.deasserted)

end Sys2Proof.Machine
end

