-- ==== Sys2Proof/Machine/Operands.lean ====
section
/-! DEFINITION. Every field of every command word, and what makes a word malformed (R24, Table 10-3). -/

namespace Sys2Proof.Machine

/-- A word has a bit set outside the fields of `mask` (R24). -/
def bitsOutside (w mask : Word) : Bool := (w &&& ~~~mask) != 0

/-! ### Fields shared by several commands -/

/-- Object number, bits 5-0. -/
def objectField (w : Word) : ObjNum := (w.extractLsb' 0 6).toFin

/-- Master number, bits 2-0. -/
def masterField (w : Word) : Master := (w.extractLsb' 0 3).toFin

/-- Object echo of a command that names an object (R21). -/
def objectEcho (w : Word) : BitVec 6 := w.extractLsb' 0 6

/-- Object echo of a command that names a master (R21). -/
def masterEcho (w : Word) : BitVec 6 := (w.extractLsb' 0 3).setWidth 6

/-- Object echo of CONFIG_GUARD, the window number (R21). -/
def windowEcho (w : Word) : BitVec 6 := (w.extractLsb' 0 4).setWidth 6

/-- The fields of a port word that names an object alone: bits 5-0. -/
def objectMask : Word := 0x0000003F#32

/-! ### CLAIM (R26) -/

/-- Port word: 5-0 object, 8 mode, 9 wait flag, 15-12 priority. -/
def claimMask : Word := 0x0000F33F#32

/-- OPERAND_A: 7-0 tag, 31-16 wait limit. -/
def claimMaskA : Word := 0xFFFF00FF#32

/-- Mode, bit 8: 0 EXCLUSIVE, 1 SHARED. -/
def claimMode (w : Word) : Mode := if w.getLsbD 8 then .shared else .exclusive

/-- Wait flag, bit 9. -/
def claimWait (w : Word) : Bool := w.getLsbD 9

/-- Priority, bits 15-12. -/
def claimPriority (w : Word) : BitVec 4 := w.extractLsb' 12 4

/-- Tag, bits 7-0 of OPERAND_A. -/
def claimTag (a : Word) : BitVec 8 := a.extractLsb' 0 8

/-- Wait limit, bits 31-16 of OPERAND_A. -/
def claimWaitLimit (a : Word) : BitVec 16 := a.extractLsb' 16 16

/-- CLAIM's operands are malformed (R26, R27). -/
def claimMalformed (w a : Word) : Bool := bitsOutside w claimMask || bitsOutside a claimMaskA

/-! ### SET_ATTENTION (R120) -/

/-- Port word: 0 setting. -/
def attentionMask : Word := 0x00000001#32

/-- Setting, bit 0: 1 on. -/
def attentionSetting (w : Word) : Bool := w.getLsbD 0

/-! ### CONFIG_OBJECT (R10) -/

/-- Port word: 5-0 object, 6 class, 7 contention yield, 15-8 floor, 23-16 settle. -/
def configMask : Word := 0x00FFFFFF#32

/-- OPERAND_A: 15-0 ceiling, 23-16 allowance. -/
def configMaskA : Word := 0x00FFFFFF#32

/-- Class, bit 6: 0 EXCLUSIVE-ONLY, 1 SHAREABLE. -/
def configClass (w : Word) : ObjClass := if w.getLsbD 6 then .shareable else .exclusiveOnly

/-- Contention yield, bit 7. -/
def configContentionYield (w : Word) : Bool := w.getLsbD 7

/-- Floor, bits 15-8. -/
def configFloor (w : Word) : BitVec 8 := w.extractLsb' 8 8

/-- Settle, bits 23-16. -/
def configSettle (w : Word) : BitVec 8 := w.extractLsb' 16 8

/-- Ceiling, bits 15-0 of OPERAND_A. -/
def configCeiling (a : Word) : BitVec 16 := a.extractLsb' 0 16

/-- Allowance, bits 23-16 of OPERAND_A. -/
def configAllowance (a : Word) : BitVec 8 := a.extractLsb' 16 8

/-- CONFIG_OBJECT's operands are malformed; an allowance of 0 is (R10). -/
def configMalformed (w a : Word) : Bool :=
  bitsOutside w configMask || bitsOutside a configMaskA || configAllowance a == 0

/-! ### Master commands (R100, R103, R105, R108) -/

/-- SET_QUOTA port word: 2-0 master, 13-8 quota. -/
def quotaMask : Word := 0x00003F07#32

/-- Quota, bits 13-8. -/
def quotaField (w : Word) : BitVec 6 := w.extractLsb' 8 6

/-- SET_QUOTA's port word is malformed; a quota above 32 is (R103). -/
def quotaMalformed (w : Word) : Bool := bitsOutside w quotaMask || 32#6 < quotaField w

/-- SET_STANDING port word: 2-0 master, 9-8 action. -/
def standingMask : Word := 0x00000307#32

/-- Action, bits 9-8. -/
def standingAction (w : Word) : BitVec 2 := w.extractLsb' 8 2

/-- The code of action READMIT. -/
def actionReadmit : BitVec 2 := 1#2

/-- The code of action BAR. -/
def actionBar : BitVec 2 := 2#2

/-- SET_STANDING's port word is malformed; an action other than READMIT or BAR is (R100). -/
def standingMalformed (w : Word) : Bool :=
  bitsOutside w standingMask || (standingAction w != actionReadmit && standingAction w != actionBar)

/-- SET_SUPERVISOR port word: 2-0 master, 8 setting. -/
def supervisorMask : Word := 0x00000107#32

/-- Setting, bit 8: 1 yes. -/
def supervisorSetting (w : Word) : Bool := w.getLsbD 8

/-- CLEAR_MASTER port word: 2-0 master. -/
def clearMask : Word := 0x00000007#32

/-! ### CONFIG_GUARD (R127) -/

/-- Port word: 3-0 window, 8 enable, 9 kind, 10 action, 21-16 object. -/
def guardMask : Word := 0x003F070F#32

/-- OPERAND_A and OPERAND_B: 19-0 granule. -/
def granuleMask : Word := 0x000FFFFF#32

/-- Window number, bits 3-0. -/
def windowField (w : Word) : WindowNum := (w.extractLsb' 0 4).toFin

/-- The window that CONFIG_GUARD writes, from its port word and the two operand registers. -/
def guardFields (w a b : Word) : GuardWindow where
  enable := w.getLsbD 8
  base := a.extractLsb' 0 20
  limit := b.extractLsb' 0 20
  object := (w.extractLsb' 16 6).toFin
  kind := if w.getLsbD 9 then .accessGuard else .writeGuard
  action := if w.getLsbD 10 then .deny else .log

/-- CONFIG_GUARD's operands are malformed (R127). -/
def guardMalformed (w a b : Word) : Bool :=
  bitsOutside w guardMask || bitsOutside a granuleMask || bitsOutside b granuleMask

/-! ### SET_TIME_BASE (R152) -/

/-- Port word: 15-0 divider, 16 run state. -/
def timeBaseMask : Word := 0x0001FFFF#32

/-- Divider, bits 15-0. -/
def dividerField (w : Word) : BitVec 16 := w.extractLsb' 0 16

/-- Run state, bit 16: 0 STOPPED, 1 RUNNING. -/
def runStateField (w : Word) : RunState := if w.getLsbD 16 then .running else .stopped

/-! ### Window offsets and REGISTER_WRITE (R156, R162, Table 10-1, Table 10-4) -/

/-- The byte offset of a word of the window. -/
def byteOffset (offset : WindowOffset) : Nat := 4 * offset.toNat

/-- The offset of VIEW_0, 20h (Table 10-1). -/
def view0Offset : WindowOffset := 8#6

/-- A write is taken only with all four byte enables asserted (R156). -/
def wholeWord (byteEnables : BitVec 4) : Bool := byteEnables == 0b1111#4

/-- The offsets of the command ports: 80h to A0h and C0h to E8h (Table 10-1). -/
def isCommandOffset (offset : WindowOffset) : Bool :=
  (0x80 ≤ byteOffset offset && byteOffset offset ≤ 0xA0) ||
    (0xC0 ≤ byteOffset offset && byteOffset offset ≤ 0xE8)

/-- The view kind with code `c` (Table 10-4). -/
def viewKindOf (c : BitVec 2) : ViewKind :=
  if c == 0 then .object else if c == 1 then .lineEntry else if c == 2 then .master else .guardWindow

/-- VIEW_SELECT: 17-16 view kind, 13-8 index, 3-0 position; other bits are discarded (R162). -/
def viewSelectOf (w : Word) : ViewSelect where
  kind := viewKindOf (w.extractLsb' 16 2)
  index := w.extractLsb' 8 6
  position := w.extractLsb' 0 4

end Sys2Proof.Machine
end

