-- ==== Sys2Proof/Machine/Flags.lean ====
section
/-! DEFINITION. The values the part computes from its records: standing from score, whether attention lines are
asserted, whether a guard window is active, and the saturating counts. -/

namespace Sys2Proof.Machine

/-- A rise of a score by `n`, stopping at 255 (R91). -/
def raiseScore (score : BitVec 8) (n : Nat) : BitVec 8 := BitVec.ofNat 8 (min 255 (score.toNat + n))

/-- A fall of a score by one, stopping at 0 (R37, R91). -/
def creditScore (score : BitVec 8) : BitVec 8 := if score == 0 then 0 else score - 1

/-- An 8-bit count that rises by one and stops at 255 (R19, R145). -/
def saturatingRise8 (c : BitVec 8) : BitVec 8 := if c == 255#8 then c else c + 1

/-- The tenure rises by one and stops at 65535 (R67). -/
def saturatingRise16 (c : BitVec 16) : BitVec 16 := if c == 65535#16 then c else c + 1

/-- The standing that a score gives (Table 5-3). -/
def standingOf (score : BitVec 8) : Standing :=
  if score < 64#8 then .good else if score < 128#8 then .warned else if score < 192#8 then .restricted else .barred

/-- The standing after a change of score: BARRED is left only by READMIT (R92). -/
def recomputeStanding (before : Standing) (score : BitVec 8) : Standing :=
  if before == .barred then .barred else standingOf score

/-- A master record with a new score and its standing recomputed (R92). -/
def MasterRec.withScore (r : MasterRec) (score : BitVec 8) : MasterRec :=
  { r with score := score, standing := recomputeStanding r.standing score }

/-- The level of the attention line of `m`: its enable is on and its queue holds a record (R119). After RESET
every enable is off, and while RESET is asserted every line is deasserted (R155). -/
def State.atn (s : State) (m : Master) : Bool :=
  (s.mst m).attention && !(s.mst m).queue.isEmpty && !s.resetAsserted

/-- The object is HELD-EXCLUSIVE or HELD-SHARED. -/
def ObjectRec.isHeld (r : ObjectRec) : Bool := r.state == .heldExclusive || r.state == .heldShared

/-- A guard window is active: enabled, its object not OFFLINE, its limit not below its base (R129). -/
def State.windowActive (s : State) (g : GuardWindow) : Bool :=
  g.enable && (s.obj g.object).state != .offline && g.base ≤ g.limit

end Sys2Proof.Machine
end

