-- ==== Sys2Proof/Machine/Handover.lean ====
section
/-! DEFINITION. The operations of the Object Table that several commands and expiries share: asking a yield, the
contention test, handover, and what follows the removal of a holder (Chapters 2 and 4). -/

namespace Sys2Proof.Machine

/-! ### Asking a yield -/

/-- Asking a yield: it becomes pending with the allowance, and every holder is posted YIELD_ASKED (R73). A yield
just asked is not counted down for the TU just ended (R68). -/
def askYield (o : ObjNum) (reason : YieldReason) (s : State) : State :=
  let r := s.obj o
  (s.modObj o fun r =>
      { r with
        yieldPending := some { remaining := r.allowance, reason := reason }
        owed := { r.owed with yield := false } }).postEach
    (members r.holders) (.yieldAsked o reason r.allowance)

/-- The five conditions of the contention test (R69). -/
def ObjectRec.contended (r : ObjectRec) : Bool :=
  r.isHeld && r.contentionYield && !r.line.isEmpty && r.floor.setWidth 16 ≤ r.tenure && r.yieldPending.isNone

/-- The contention test: when it succeeds a yield is asked, when it fails nothing changes (R69). -/
def contentionTest (o : ObjNum) (s : State) : State :=
  if (s.obj o).contended then askYield o .contention s else s

/-! ### Handover (section 2.4) -/

/-- What ends with a tenure: the yield is absent and the tenure 0 (R36, R39), and no count of them is owed. -/
def ObjectRec.endTenure (r : ObjectRec) : ObjectRec :=
  { r with tenure := 0, yieldPending := none, owed := Owed.none }

/-- The grant count rises by one and wraps (R18). -/
def ObjectRec.countGrant (r : ObjectRec) : ObjectRec := { r with grantCount := r.grantCount + 1 }

/-- Step 1: the object enters SETTLING, its line and watch set kept (R40). -/
def enterSettling (o : ObjNum) (s : State) : State :=
  s.modObj o fun r =>
    { r with state := .settling, settleRemaining := some r.settle, tenure := 0, yieldPending := none, owed := Owed.none }

/-- Step 2 with an empty line: the object becomes FREE, its watchers are posted FREED in ascending order and the
watch set is emptied (R41). -/
def becomeFree (o : ObjNum) (s : State) : State :=
  (s.modObj o fun r => { r with state := .free, tenure := 0, watchers := 0 }).postEach
    (members (s.obj o).watchers) (.freed o)

/-- The entries that step 3 grants: the head alone if EXCLUSIVE (R42), else the head and every entry behind it up
to the first EXCLUSIVE entry (R43). -/
def grantedEntries : List Entry → List Entry
  | [] => []
  | e :: rest => if e.mode == .exclusive then [e] else (e :: rest).takeWhile fun x => x.mode == .shared

/-- The entries that remain in the line after step 3 (R42, R43). -/
def remainingEntries : List Entry → List Entry
  | [] => []
  | e :: rest => if e.mode == .exclusive then rest else (e :: rest).dropWhile fun x => x.mode == .shared

/-- The state that step 3 leaves, by the mode of the head entry (R42, R43). -/
def grantedState : List Entry → ObjState
  | [] => .free
  | e :: _ => if e.mode == .exclusive then .heldExclusive else .heldShared

/-- The granting of one entry: it returns to the pool, its master's waits held fall with it, the grant count rises
and its master is posted GRANTED (R44). -/
def grantEntry (o : ObjNum) (s : State) (e : Entry) : State :=
  ((s.returnEntries 1).modObj o ObjectRec.countGrant).post e.master (.granted o e.mode e.tag)

/-- Step 3: the head entry or the shared batch is granted, head first, and the contention test is made (R42 to R45). -/
def grantFromLine (o : ObjNum) (s : State) : State :=
  let line := (s.obj o).line
  let granted := grantedEntries line
  let s := s.modObj o fun r =>
    { r.endTenure with
      state := grantedState line
      holders := setOf (granted.map Entry.master)
      line := remainingEntries line }
  contentionTest o (granted.foldl (grantEntry o) s)

/-- Handover from step 2 (R41, R46). -/
def handoverFromStep2 (o : ObjNum) (s : State) : State :=
  if (s.obj o).line.isEmpty then becomeFree o s else grantFromLine o s

/-- Handover after an emptying: step 1 enters SETTLING after a forced emptying when settle is non-zero, else
handover goes on at step 2 (R39, R40). -/
def handover (forced : Bool) (o : ObjNum) (s : State) : State :=
  if forced && (s.obj o).settle != 0 then enterSettling o s else handoverFromStep2 o s

/-- A holder leaves the holder set. -/
def ObjectRec.dropHolder (r : ObjectRec) (m : Master) : ObjectRec := { r with holders := removeMember r.holders m }

/-- What follows the removal of a holder: with others left nothing more (R35); with none, the yield becomes absent,
the tenure 0, and handover runs (R36, R39, R96, R106). -/
def afterRemoval (forced : Bool) (o : ObjNum) (s : State) : State :=
  if (s.obj o).holders == 0 then handover forced o (s.modObj o ObjectRec.endTenure) else s

/-- A settle expiry: settle remaining becomes absent and handover resumes at step 2 (R46, R85). -/
def settleExpires (o : ObjNum) (s : State) : State :=
  handoverFromStep2 o (s.modObj o fun r => { r with settleRemaining := none, owed := Owed.none })

end Sys2Proof.Machine
end

