-- ==== Sys2Proof/Machine/Standing.lean ====
section
/-! DEFINITION. The operations of the Master Table that several commands and expiries share: the barring cascade,
a change of score, the deadline, and the clearing of a master (Chapters 4 and 5). -/

namespace Sys2Proof.Machine

/-! ### The barring cascade (section 5.3) -/

/-- The objects that `m` holds, ascending. -/
def State.heldBy (s : State) (m : Master) : List ObjNum :=
  allObjects.filter fun o => isMember (s.obj o).holders m

/-- The objects in whose lines `m` stands, ascending. -/
def State.waitedOnBy (s : State) (m : Master) : List ObjNum :=
  allObjects.filter fun o => s.isWaiting m o

/-- `m` leaves the watch set of `o`, with no record posted (R97, R106, R123). -/
def State.dropWatch (s : State) (m : Master) (o : ObjNum) : State :=
  s.modObj o fun r => { r with watchers := removeMember r.watchers m }

/-- `m` leaves every watch set (R97, R106). -/
def dropWatches (m : Master) (s : State) : State :=
  allObjects.foldl (fun s o => s.dropWatch m o) s

/-- First stage of the cascade: its notices (R95). -/
def cascadeNotices (m : Master) (s : State) : State :=
  (s.post m (.standing .barred (s.mst m).score)).postSupervisors (.faultBarred m)

/-- Second stage, one object: `m` leaves its holder set, is posted REVOKED(BARRED) and leaves its watch set; if the
holder set is now empty, handover runs as a forced emptying (R96). -/
def cascadeHold (m : Master) (s : State) (o : ObjNum) : State :=
  afterRemoval true o
    (((s.modObj o fun r => r.dropHolder m).post m (.revoked o .barred)).dropWatch m o)

/-- Third stage, one object: `m`'s entry leaves the line with WAIT_ENDED(BARRED) (R64, R97). -/
def cascadeWait (m : Master) (s : State) (o : ObjNum) : State :=
  (s.removeWaiter o m).post m (.waitEnded o .barred)

/-- The barring cascade, its four stages in order (R95 to R97). -/
def cascade (m : Master) (s : State) : State :=
  let s := cascadeNotices m s
  let s := (s.heldBy m).foldl (cascadeHold m) s
  let s := (s.waitedOnBy m).foldl (cascadeWait m) s
  dropWatches m s

/-! ### A change of score (section 5.2) -/

/-- A change of `m`'s score with its standing recomputed: no record if the standing is unchanged, STANDING if it
changed to another than BARRED, and the cascade, which posts it, if it changed to BARRED (R92). -/
def changeScore (m : Master) (score : BitVec 8) (s : State) : State :=
  let before := (s.mst m).standing
  let s := s.modMst m fun r => r.withScore score
  let now := (s.mst m).standing
  if now == before then s
  else if now == .barred then cascade m s
  else s.post m (.standing now score)

/-- The credit of a RELEASE (R37). -/
def credit (m : Master) (s : State) : State := changeScore m (creditScore (s.mst m).score) s

/-- The points of a deadline (Table 5-2). -/
def deadlineCharge : Nat := 24

/-- The points of a guard violation (Table 5-2). -/
def violationCharge : Nat := 6

/-- The score to which BAR raises a lower one (R102). -/
def barScore : BitVec 8 := 192

/-! ### The deadline (section 4.5) -/

/-- First stage of a deadline, the charge of one removed holder: a STANDING record for BARRED is held back to the
cascade (R78, R98). -/
def deadlineChargeHolder (h : Master) (s : State) : State :=
  let before := (s.mst h).standing
  let score := raiseScore (s.mst h).score deadlineCharge
  let s := s.modMst h fun r => r.withScore score
  let now := (s.mst h).standing
  if now == before || now == .barred then s else s.post h (.standing now score)

/-- First stage of a deadline, one holder: removed, counted, posted REVOKED(DEADLINE), noticed to the supervisors
and charged (R78). -/
def deadlineRemove (o : ObjNum) (s : State) (h : Master) : State :=
  let s := s.modObj o fun r => { r.dropHolder h with revokeCount := saturatingRise8 r.revokeCount }
  deadlineChargeHolder h ((s.post h (.revoked o .deadline)).postSupervisors (.faultDeadline h o))

/-- First stage of a deadline: the yield becomes absent, every holder is removed in ascending order, and the tenure
becomes 0 (R78). -/
def deadlineFirstStage (o : ObjNum) (s : State) : State :=
  ((members (s.obj o).holders).foldl (deadlineRemove o)
      (s.modObj o fun r => { r with yieldPending := none })).modObj o ObjectRec.endTenure

/-- The masters of a list whose standing became BARRED between two states (R79). -/
def barredBetween (before after : State) (l : List Master) : List Master :=
  l.filter fun h => (before.mst h).standing != .barred && (after.mst h).standing == .barred

/-- A deadline: its three stages (R78 to R80). -/
def deadline (o : ObjNum) (s : State) : State :=
  let s1 := deadlineFirstStage o s
  let s2 := (barredBetween s s1 (members (s.obj o).holders)).foldl (fun s h => cascade h s) s1
  handover true o s2

/-! ### The clearing of a master (section 5.7) -/

/-- Second stage of a clearing, one object: `m` leaves its holder set without record, credit or count, and if it is
now empty handover runs as a voluntary emptying (R106). -/
def clearHold (m : Master) (s : State) (o : ObjNum) : State :=
  afterRemoval false o (s.modObj o fun r => r.dropHolder m)

/-- Third stage of a clearing, one object: `m`'s entry leaves the line with no record (R65, R106). -/
def clearWait (m : Master) (s : State) (o : ObjNum) : State := s.removeWaiter o m

/-- Fourth stage of a clearing: the event queue is emptied and the overflow flag cleared (R106). -/
def clearQueue (m : Master) (s : State) : State :=
  s.modMst m fun r => { r with queue := [], overflow := false }

/-- The clearing of master `m`: watches, holds, waits, queue (R106). -/
def clearing (m : Master) (s : State) : State :=
  let s := dropWatches m s
  let s := (s.heldBy m).foldl (clearHold m) s
  let s := (s.waitedOnBy m).foldl (clearWait m) s
  clearQueue m s

/-- The count of a clearing: the objects from which `m` is removed at its second stage (R106). -/
def clearingCount (m : Master) (s : State) : Nat := (s.heldBy m).length

end Sys2Proof.Machine
end

