-- ==== Sys2Proof/Machine/Claiming.lean ====
section
/-! DEFINITION. CLAIM and RELEASE (Chapter 2). -/

namespace Sys2Proof.Machine

/-! ### CLAIM -/

/-- The first six checks of a CLAIM, in order (R27). -/
def claimChecks (m : Master) (w : Word) (s : State) : List (Bool × Reason) :=
  let r := s.obj (objectField w)
  [ (claimMalformed w (s.port m).operandA, .badOperand),
    ((s.mst m).standing == .barred, .barred),
    (r.state == .offline, .offline),
    (isMember r.holders m, .holderSelf),
    (s.isWaiting m (objectField w), .alreadyWaiting),
    (claimMode w == .shared && r.objClass == .exclusiveOnly, .modeNotAllowed) ]

/-- A SHARED claim may join the present shared tenure (R28). -/
def ObjectRec.joinable (r : ObjectRec) (mode : Mode) : Bool :=
  r.state == .heldShared && mode == .shared && r.line.isEmpty && r.yieldPending.isNone

/-- The state of an object held in a mode (R29). -/
def heldState : Mode → ObjState
  | .exclusive => .heldExclusive
  | .shared => .heldShared

/-- A claim on a FREE object is granted at once: the writer is the one holder and a tenure begins (R29). -/
def grantAtOnce (m : Master) (mode : Mode) (o : ObjNum) (s : State) : State :=
  s.modObj o fun r =>
    ObjectRec.countGrant { r with holders := single m, state := heldState mode, tenure := 0, owed := Owed.none }

/-- A shared claim joins the present tenure, which keeps its count (R30). -/
def sharedJoin (m : Master) (o : ObjNum) (s : State) : State :=
  s.modObj o fun r => ObjectRec.countGrant { r with holders := addMember r.holders m }

/-- The checks of a claim that may wait, in order; a claim that may not wait is BUSY before them (R31, R32). -/
def waitChecks (m : Master) (w : Word) (s : State) : List (Bool × Reason) :=
  [ (!claimWait w, .busy),
    ((s.mst m).standing == .restricted, .restricted),
    ((s.mst m).quota.toNat ≤ s.waitsHeld m, .quota),
    (s.poolFree == 0, .poolEmpty) ]

/-- The effective priority: the claimed one, clamped to at most 7 when the writer is WARNED (R33, R93). -/
def effectivePriority (standing : Standing) (priority : BitVec 4) : BitVec 4 :=
  if standing == .warned && 7#4 < priority then 7#4 else priority

/-- The wait remaining of a new entry: absent for a wait limit of 0 (R33). -/
def initialWait (limit : BitVec 16) : Option (BitVec 16) := if limit == 0 then none else some limit

/-- The waiter entry of a claim (R33, Table 3-1). -/
def claimEntry (m : Master) (w : Word) (s : State) : Entry where
  master := m
  mode := claimMode w
  priority := effectivePriority (s.mst m).standing (claimPriority w)
  waitRemaining := initialWait (claimWaitLimit (s.port m).operandA)
  tag := claimTag (s.port m).operandA
  due := false

/-- A waiting claim is queued: an entry is taken from the pool and inserted, and the contention test is made (R33). -/
def queueClaim (m : Master) (w : Word) (s : State) : State :=
  let o := objectField w
  let e := claimEntry m w s
  contentionTest o ((s.takeEntry).modObj o fun r => { r with line := insertEntry e r.line })

/-- A CLAIM that has passed the checks of R27 (R28 to R33). -/
def claimAdmitted (m : Master) (w : Word) (s : State) : State :=
  let o := objectField w
  let echo := objectEcho w
  if (s.obj o).state == .free then
    (grantAtOnce m (claimMode w) o s).answer m (ResultRec.granted echo)
  else if (s.obj o).joinable (claimMode w) then
    (sharedJoin m o s).answer m (ResultRec.granted echo)
  else
    s.checked m echo (waitChecks m w s) fun s =>
      (queueClaim m w s).answer m
        (ResultRec.queued echo (insertPosition (claimEntry m w s).priority (s.obj o).line))

/-- CLAIM taken from `m` with port word `w` (R27). -/
def claim (m : Master) (w : Word) (s : State) : State :=
  s.checked m (objectEcho w) (claimChecks m w s) (claimAdmitted m w)

/-- CLAIM (R26 to R33). -/
def execClaim (m : Master) (w : Word) (s : State) : Host.Outcome State Fault Refusal := answerWindow s (claim m w)

/-! ### RELEASE -/

/-- The checks of a RELEASE, in order (R34). -/
def releaseChecks (m : Master) (w : Word) (s : State) : List (Bool × Reason) :=
  [ (bitsOutside w objectMask, .badOperand),
    (!isMember (s.obj (objectField w)).holders m, .notHolder) ]

/-- The writer leaves the holder set; handover runs as a voluntary emptying if the set is now empty (R35, R36). -/
def releaseHold (m : Master) (o : ObjNum) (s : State) : State :=
  afterRemoval false o (s.modObj o fun r => r.dropHolder m)

/-- RELEASE taken from `m` with port word `w`; the credit follows the handover (R34 to R37). -/
def release (m : Master) (w : Word) (s : State) : State :=
  s.checked m (objectEcho w) (releaseChecks m w s) fun s =>
    (credit m (releaseHold m (objectField w) s)).answer m (ResultRec.done (objectEcho w))

/-- RELEASE (R34 to R38). -/
def execRelease (m : Master) (w : Word) (s : State) : Host.Outcome State Fault Refusal := answerWindow s (release m w)

end Sys2Proof.Machine
end

