-- ==== Sys2Proof/Machine/Events.lean ====
section
/-! DEFINITION. WATCH, UNWATCH, ACK_EVENT, CLEAR_OVERFLOW and SET_ATTENTION (Chapter 6). -/

namespace Sys2Proof.Machine

/-- The checks of a WATCH, in order (R122). -/
def watchChecks (m : Master) (w : Word) (s : State) : List (Bool × Reason) :=
  [ (bitsOutside w objectMask, .badOperand),
    ((s.mst m).standing == .barred, .barred),
    ((s.obj (objectField w)).state == .offline, .offline) ]

/-- A WATCH that passes its checks: answered at once on a FREE object, else the writer joins the watch set (R122). -/
def watchAdmitted (m : Master) (o : ObjNum) (s : State) : State :=
  if (s.obj o).state == .free then s.post m (.freed o)
  else s.modObj o fun r => { r with watchers := addMember r.watchers m }

/-- WATCH taken from `m` with port word `w` (R122). -/
def watch (m : Master) (w : Word) (s : State) : State :=
  s.checked m (objectEcho w) (watchChecks m w s) fun s =>
    (watchAdmitted m (objectField w) s).answer m (ResultRec.done (objectEcho w))

/-- WATCH (R121, R122). -/
def execWatch (m : Master) (w : Word) (s : State) : Host.Outcome State Fault Refusal := answerWindow s (watch m w)

/-- UNWATCH taken from `m` with port word `w` (R123). -/
def unwatch (m : Master) (w : Word) (s : State) : State :=
  s.checked m (objectEcho w) [(bitsOutside w objectMask, .badOperand)] fun s =>
    (s.modObj (objectField w) fun r => { r with watchers := removeMember r.watchers m }).answer m
      (ResultRec.done (objectEcho w))

/-- UNWATCH (R123). -/
def execUnwatch (m : Master) (w : Word) (s : State) : Host.Outcome State Fault Refusal := answerWindow s (unwatch m w)

/-- The checks of an ACK_EVENT, in order (R117). -/
def ackEventChecks (m : Master) (w : Word) (s : State) : List (Bool × Reason) :=
  [ (w != 0, .badOperand),
    ((s.mst m).queue.isEmpty, .queueEmpty) ]

/-- ACK_EVENT taken from `m` with port word `w` (R117). -/
def ackEvent (m : Master) (w : Word) (s : State) : State :=
  s.checked m 0 (ackEventChecks m w s) fun s =>
    (s.modMst m fun r => { r with queue := r.queue.tail }).answer m (ResultRec.done 0)

/-- ACK_EVENT (R117). -/
def execAckEvent (m : Master) (w : Word) (s : State) : Host.Outcome State Fault Refusal := answerWindow s (ackEvent m w)

/-- CLEAR_OVERFLOW taken from `m` with port word `w` (R118). -/
def clearOverflow (m : Master) (w : Word) (s : State) : State :=
  s.checked m 0 [(w != 0, .badOperand)] fun s =>
    (s.modMst m fun r => { r with overflow := false }).answer m (ResultRec.done 0)

/-- CLEAR_OVERFLOW (R118). -/
def execClearOverflow (m : Master) (w : Word) (s : State) : Host.Outcome State Fault Refusal :=
  answerWindow s (clearOverflow m w)

/-- SET_ATTENTION taken from `m` with port word `w` (R120). -/
def setAttention (m : Master) (w : Word) (s : State) : State :=
  s.checked m 0 [(bitsOutside w attentionMask, .badOperand)] fun s =>
    (s.modMst m fun r => { r with attention := attentionSetting w }).answer m (ResultRec.done 0)

/-- SET_ATTENTION (R120). -/
def execSetAttention (m : Master) (w : Word) (s : State) : Host.Outcome State Fault Refusal :=
  answerWindow s (setAttention m w)

end Sys2Proof.Machine
end

