-- ==== Sys2Proof/Machine/Masters.lean ====
section
/-! DEFINITION. RESET_SELF, SET_QUOTA, SET_STANDING (READMIT and BAR), SET_SUPERVISOR and CLEAR_MASTER (Chapter 5). -/

namespace Sys2Proof.Machine

/-- The first check of every supervisor command: the writer carries the attribute (R104). -/
def notSupervisor (m : Master) (s : State) : Bool := !(s.mst m).supervisor

/-- RESET_SELF taken from `m` with port word `w` (R107). -/
def resetSelf (m : Master) (w : Word) (s : State) : State :=
  s.checked m 0 [(w != 0, .badOperand)] fun s =>
    (clearing m s).answer m (ResultRec.doneCount 0 (clearingCount m s))

/-- RESET_SELF (R106, R107). -/
def execResetSelf (m : Master) (w : Word) (s : State) : Host.Outcome State Fault Refusal := answerWindow s (resetSelf m w)

/-- SET_QUOTA taken from `m` with port word `w` (R103). -/
def setQuota (m : Master) (w : Word) (s : State) : State :=
  s.checked m (masterEcho w) [(notSupervisor m s, .notPrivileged), (quotaMalformed w, .badOperand)] fun s =>
    (s.modMst (masterField w) fun r => { r with quota := quotaField w }).answer m (ResultRec.done (masterEcho w))

/-- SET_QUOTA (R103). -/
def execSetQuota (m : Master) (w : Word) (s : State) : Host.Outcome State Fault Refusal := answerWindow s (setQuota m w)

/-- READMIT of master `n`: score 0, standing GOOD, and STANDING posted if it was not GOOD (R101). -/
def readmitMaster (n : Master) (s : State) : State :=
  let before := (s.mst n).standing
  let s := s.modMst n fun r => { r with score := 0, standing := .good }
  if before == .good then s else s.post n (.standing .good 0)

/-- BAR of master `n`: nothing if it is BARRED; else its score is raised to 192 if lower, its standing is BARRED
and the cascade runs (R102). -/
def barMaster (n : Master) (s : State) : State :=
  if (s.mst n).standing == .barred then s
  else
    cascade n (s.modMst n fun r =>
      { r with score := if r.score < barScore then barScore else r.score, standing := .barred })

/-- The action of a SET_STANDING that passed its checks (R100). -/
def standingAdmitted (w : Word) (s : State) : State :=
  if standingAction w == actionReadmit then readmitMaster (masterField w) s else barMaster (masterField w) s

/-- SET_STANDING taken from `m` with port word `w` (R100). -/
def setStanding (m : Master) (w : Word) (s : State) : State :=
  s.checked m (masterEcho w) [(notSupervisor m s, .notPrivileged), (standingMalformed w, .badOperand)] fun s =>
    (standingAdmitted w s).answer m (ResultRec.done (masterEcho w))

/-- READMIT: a write to the SET_STANDING port (R100, R101; log 8). -/
def execReadmit (m : Master) (w : Word) (s : State) : Host.Outcome State Fault Refusal := answerWindow s (setStanding m w)

/-- BAR: a write to the SET_STANDING port (R100, R102; log 8). -/
def execBar (m : Master) (w : Word) (s : State) : Host.Outcome State Fault Refusal := answerWindow s (setStanding m w)

/-- The setting no would leave no supervisor: `n` carries the attribute and no other master does (R105). -/
def lastSupervisor (n : Master) (s : State) : Bool :=
  (s.mst n).supervisor && allMasters.all fun k => k == n || !(s.mst k).supervisor

/-- The checks of a SET_SUPERVISOR, in order (R105). -/
def supervisorChecks (m : Master) (w : Word) (s : State) : List (Bool × Reason) :=
  [ (notSupervisor m s, .notPrivileged),
    (bitsOutside w supervisorMask, .badOperand),
    (!supervisorSetting w && lastSupervisor (masterField w) s, .lastSupervisor) ]

/-- SET_SUPERVISOR taken from `m` with port word `w` (R105). -/
def setSupervisor (m : Master) (w : Word) (s : State) : State :=
  s.checked m (masterEcho w) (supervisorChecks m w s) fun s =>
    (s.modMst (masterField w) fun r => { r with supervisor := supervisorSetting w }).answer m
      (ResultRec.done (masterEcho w))

/-- SET_SUPERVISOR (R105). -/
def execSetSupervisor (m : Master) (w : Word) (s : State) : Host.Outcome State Fault Refusal :=
  answerWindow s (setSupervisor m w)

/-- CLEAR_MASTER taken from `m` with port word `w`: the clearing of the named master, then CLEARED to it (R108). -/
def clearMaster (m : Master) (w : Word) (s : State) : State :=
  s.checked m (masterEcho w) [(notSupervisor m s, .notPrivileged), (bitsOutside w clearMask, .badOperand)] fun s =>
    ((clearing (masterField w) s).post (masterField w) (.cleared m)).answer m
      (ResultRec.doneCount (masterEcho w) (clearingCount (masterField w) s))

/-- CLEAR_MASTER (R106, R108). -/
def execClearMaster (m : Master) (w : Word) (s : State) : Host.Outcome State Fault Refusal :=
  answerWindow s (clearMaster m w)

end Sys2Proof.Machine
end

