-- ==== Sys2Proof/Machine/Guard.lean ====
section
/-! DEFINITION. Guard windows, observations and the violation log: CONFIG_GUARD, OBSERVATION and ACK_LOG (Chapters
7 and 8). -/

namespace Sys2Proof.Machine

/-! ### CONFIG_GUARD -/

/-- CONFIG_GUARD taken from `m` with port word `w` (R127, R128). -/
def configGuard (m : Master) (w : Word) (s : State) : State :=
  let a := (s.port m).operandA
  let b := (s.port m).operandB
  s.checked m (windowEcho w) [(notSupervisor m s, .notPrivileged), (guardMalformed w a b, .badOperand)] fun s =>
    (s.setWin (windowField w) (guardFields w a b)).answer m (ResultRec.done (windowEcho w))

/-- CONFIG_GUARD (R127, R128). -/
def execConfigGuard (m : Master) (w : Word) (s : State) : Host.Outcome State Fault Refusal :=
  answerWindow s (configGuard m w)

/-! ### The checks of an observation -/

/-- The granule number of a word address: the address divided by 1024 (R131). -/
def granuleOf (addr : WordAddr) : Granule := addr.extractLsb' 10 20

/-- A window contains a granule, its base and limit included (R131). -/
def GuardWindow.contains (g : GuardWindow) (x : Granule) : Bool := g.base ≤ x && x ≤ g.limit

/-- The check of one window on its object's record: nothing if the access passes, else the cause (R132 to R134,
Table 7-2). A READ passes in a WRITE-GUARD window whose object the reader does not hold, SETTLING or not (R84, R132,
R139, Table 7-2, the text under Table 1-2). R176 and R109 have such windows fail every access, and the spec has no
ruling between the two wordings: that the first holds is the model's choice (DESIGN CHOICE, unsafe; log 21). -/
def checkAccess (kind : GuardKind) (dir : Direction) (m : Master) (r : ObjectRec) : Option ViolationCause :=
  match dir with
  | .read =>
    match kind with
    | .writeGuard => none
    | .accessGuard => if isMember r.holders m then none else some .noHold
  | .write =>
    if isMember r.holders m then
      if r.state == .heldExclusive then none else some .sharedWrite
    else some .noHold

/-- A window that failed its check, with its record and cause. -/
structure FailedWindow where
  index : WindowNum
  window : GuardWindow
  cause : ViolationCause
  deriving DecidableEq, Repr

/-- One window's part in an observation: its failure, if it is active, contains the access and fails (R131, R135). -/
def State.failsAt (s : State) (m : Master) (addr : WordAddr) (dir : Direction) (i : WindowNum) : Option FailedWindow :=
  let g := s.win i
  if s.windowActive g && g.contains (granuleOf addr) then
    (checkAccess g.kind dir m (s.obj g.object)).map fun cause => { index := i, window := g, cause := cause }
  else none

/-- The failing windows of an access, lowest number first (R135). -/
def State.failedWindows (s : State) (m : Master) (addr : WordAddr) (dir : Direction) : List FailedWindow :=
  allWindows.filterMap (s.failsAt m addr dir)

/-! ### The violation log -/

/-- The number of records the log can hold (R140). -/
def logCapacity : Nat := 16

/-- The record of a violation, from its reported window and the part as the check found it (R135, R141). -/
def violationRecord (m : Master) (addr : WordAddr) (dir : Direction) (f : FailedWindow) (s : State) : LogRecord where
  master := m
  addr := addr
  dir := dir
  window := f.index
  object := f.window.object
  cause := f.cause
  objState := (s.obj f.window.object).state
  stamp := s.timeBase.uptime.extractLsb' 0 24
  suppressed := 0

/-- The suppressed count of the newest record rises by one, stopping at 255 (R145). -/
def suppressNewest : List LogRecord → List LogRecord
  | [] => []
  | [l] => [{ l with suppressed := saturatingRise8 l.suppressed }]
  | l :: rest => l :: suppressNewest rest

/-- A record offered to the log: stored at the tail if there is room, with LOG_PENDING to every supervisor if the
log was empty; suppressed if the log is full (R143 to R145). -/
def offerRecord (l : LogRecord) (s : State) : State :=
  if s.log.length < logCapacity then
    let stored := { s with log := s.log ++ [l] }
    if s.log.isEmpty then stored.postSupervisors .logPending else stored
  else { s with log := suppressNewest s.log }

/-! ### OBSERVATION -/

/-- An observation, checked against the active windows: a violation is denied if a failing window has action DENY,
recorded for the lowest-numbered failing window, and charged +6 once (R135, R136). -/
def observe (m : Master) (addr : WordAddr) (dir : Direction) (s : State) : State :=
  match s.failedWindows m addr dir with
  | [] => s
  | f :: rest =>
    let s := { s with deny := (f :: rest).any fun x => x.window.action == .deny }
    let s := offerRecord (violationRecord m addr dir f s) s
    changeScore m (raiseScore (s.mst m).score violationCharge) s

/-- OBSERVATION: not checked while RESET is asserted (R155, R174; log 10). The part does not acknowledge it, and
DENY is deasserted unless the access is a violation that is denied (R130 to R136). -/
def execObservation (m : Master) (addr : WordAddr) (dir : Direction) (s : State) : Host.Outcome State Fault Refusal :=
  if s.resetAsserted then .next s.deasserted else .next (observe m addr dir s.deasserted)

/-! ### ACK_LOG -/

/-- The checks of an ACK_LOG, in order (R147). -/
def ackLogChecks (m : Master) (w : Word) (s : State) : List (Bool × Reason) :=
  [ (notSupervisor m s, .notPrivileged),
    (w != 0, .badOperand),
    (s.log.isEmpty, .logEmpty) ]

/-- ACK_LOG taken from `m` with port word `w` (R147). -/
def ackLog (m : Master) (w : Word) (s : State) : State :=
  s.checked m 0 (ackLogChecks m w s) fun s => ({ s with log := s.log.tail } : State).answer m (ResultRec.done 0)

/-- ACK_LOG (R147). -/
def execAckLog (m : Master) (w : Word) (s : State) : Host.Outcome State Fault Refusal := answerWindow s (ackLog m w)

end Sys2Proof.Machine
end

