-- ==== Sys2Proof/Machine/Objects.lean ====
section
/-! DEFINITION. CONFIG_OBJECT, ONLINE, OFFLINE and REVOKE (Chapters 1 and 4). -/

namespace Sys2Proof.Machine

/-- The checks of a CONFIG_OBJECT, in order (R10). -/
def configChecks (m : Master) (w : Word) (s : State) : List (Bool × Reason) :=
  [ (notSupervisor m s, .notPrivileged),
    (configMalformed w (s.port m).operandA, .badOperand),
    ((s.obj (objectField w)).state != .offline, .notOffline) ]

/-- An object record with the six configuration fields of a CONFIG_OBJECT (R11). -/
def ObjectRec.configure (r : ObjectRec) (w a : Word) : ObjectRec :=
  { r with
    objClass := configClass w
    contentionYield := configContentionYield w
    floor := configFloor w
    ceiling := configCeiling a
    allowance := configAllowance a
    settle := configSettle w }

/-- CONFIG_OBJECT taken from `m` with port word `w` (R10, R11). -/
def configObject (m : Master) (w : Word) (s : State) : State :=
  s.checked m (objectEcho w) (configChecks m w s) fun s =>
    (s.modObj (objectField w) fun r => r.configure w (s.port m).operandA).answer m (ResultRec.done (objectEcho w))

/-- CONFIG_OBJECT (R10, R11). -/
def execConfigObject (m : Master) (w : Word) (s : State) : Host.Outcome State Fault Refusal :=
  answerWindow s (configObject m w)

/-- The checks of an ONLINE, in order (R12). -/
def onlineChecks (m : Master) (w : Word) (s : State) : List (Bool × Reason) :=
  [ (notSupervisor m s, .notPrivileged),
    (bitsOutside w objectMask, .badOperand),
    ((s.obj (objectField w)).state != .offline, .alreadyOnline) ]

/-- ONLINE taken from `m` with port word `w` (R12). -/
def online (m : Master) (w : Word) (s : State) : State :=
  s.checked m (objectEcho w) (onlineChecks m w s) fun s =>
    (s.modObj (objectField w) fun r => { r with state := .free }).answer m (ResultRec.done (objectEcho w))

/-- ONLINE (R12). -/
def execOnline (m : Master) (w : Word) (s : State) : Host.Outcome State Fault Refusal := answerWindow s (online m w)

/-- The checks of an OFFLINE, in order (R13). -/
def offlineChecks (m : Master) (w : Word) (s : State) : List (Bool × Reason) :=
  [ (notSupervisor m s, .notPrivileged),
    (bitsOutside w objectMask, .badOperand),
    ((s.obj (objectField w)).state == .offline, .offline) ]

/-- OFFLINE removes every holder, ascending, with REVOKED(OFFLINE) (R14). -/
def offlineHolders (o : ObjNum) (s : State) : State :=
  (s.modObj o fun r => { r with holders := 0 }).postEach (members (s.obj o).holders) (.revoked o .offline)

/-- OFFLINE removes every entry of the line, head to tail, with WAIT_ENDED(OFFLINE) (R15). -/
def offlineLine (o : ObjNum) (s : State) : State :=
  ((s.modObj o fun r => { r with line := [] }).returnEntries (s.obj o).line.length).postEach
    ((s.obj o).line.map Entry.master) (.waitEnded o .offline)

/-- OFFLINE ends every watch with WATCH_ENDED, clears yield, settle and tenure, and sets the state (R16). -/
def offlineComplete (o : ObjNum) (s : State) : State :=
  (s.modObj o fun r =>
      { r.endTenure with watchers := 0, settleRemaining := none, state := .offline }).postEach
    (members (s.obj o).watchers) (.watchEnded o)

/-- OFFLINE taken from `m` with port word `w` (R13 to R16). -/
def offline (m : Master) (w : Word) (s : State) : State :=
  s.checked m (objectEcho w) (offlineChecks m w s) fun s =>
    (offlineComplete (objectField w) (offlineLine (objectField w) (offlineHolders (objectField w) s))).answer m
      (ResultRec.done (objectEcho w))

/-- OFFLINE (R13 to R17). -/
def execOffline (m : Master) (w : Word) (s : State) : Host.Outcome State Fault Refusal := answerWindow s (offline m w)

/-- The checks of a REVOKE, in order (R86). -/
def revokeChecks (m : Master) (w : Word) (s : State) : List (Bool × Reason) :=
  [ (notSupervisor m s, .notPrivileged),
    (bitsOutside w objectMask, .badOperand),
    (!(s.obj (objectField w)).isHeld, .notHeld) ]

/-- A REVOKE that passes its checks: the yield becomes absent, every holder is removed with REVOKED(SUPERVISOR), the
tenure becomes 0, and handover runs as a forced emptying (R87). -/
def revokeHolders (o : ObjNum) (s : State) : State :=
  handover true o
    ((s.modObj o fun r => { r.endTenure with holders := 0 }).postEach (members (s.obj o).holders)
      (.revoked o .supervisor))

/-- REVOKE taken from `m` with port word `w` (R86, R87). -/
def revoke (m : Master) (w : Word) (s : State) : State :=
  s.checked m (objectEcho w) (revokeChecks m w s) fun s =>
    (revokeHolders (objectField w) s).answer m (ResultRec.done (objectEcho w))

/-- REVOKE (R86 to R88). -/
def execRevoke (m : Master) (w : Word) (s : State) : Host.Outcome State Fault Refusal := answerWindow s (revoke m w)

end Sys2Proof.Machine
end

