-- ==== Sys2Proof/Config.lean ====
section
/-! DEFINITION. What the manual leaves free: one value with no body, so that no proof can see what it is. -/

namespace Sys2Proof

/-- The free order in which expiries of one TU end that no command has taken are taken before the next
period of RCLK is counted. The manual lets them be taken in any order (R115, R151), so which of them is next
is this constant applied to a counter that State holds (log 4). -/
opaque Config.expiryChoice : Nat → Nat

end Sys2Proof
end

