-- ==== Sys2Proof/Machine/Timing.lean ====
section
/-! DEFINITION. The end of a time unit (R68, R150, R151). A record whose counts reach no expiry advances at once;
one that reaches an expiry owes its advance, and that expiry is a step of its own (log 3). Expiries that no command
has taken are taken in a free order before the next period of RCLK is counted (log 4). -/

namespace Sys2Proof.Machine

/-! ### One object at the end of a TU -/

/-- What the end of a TU advances at an object, by its state (R68). -/
def ObjectRec.owe (r : ObjectRec) : ObjectRec :=
  { r with
    owed :=
      { settle := r.state == .settling
        yield := r.isHeld && r.yieldPending.isSome
        tenure := r.isHeld } }

/-- The settle remaining falls from 1 (R85). -/
def ObjectRec.settleFallsOut (r : ObjectRec) : Bool := r.owed.settle && r.settleRemaining == some 1

/-- The yield remaining falls from 1 (R77). -/
def ObjectRec.yieldFallsOut (r : ObjectRec) : Bool :=
  r.owed.yield && (r.yieldPending.map YieldPending.remaining) == some 1

/-- The tenure rises, to a value equal to `mark` (R70, R71). -/
def ObjectRec.tenureRisesTo (r : ObjectRec) (mark : BitVec 16) : Bool :=
  r.owed.tenure && r.tenure != 65535#16 && r.tenure + 1 == mark

/-- The tenure rises to a non-zero ceiling (R71). -/
def ObjectRec.reachesCeiling (r : ObjectRec) : Bool := r.ceiling != 0 && r.tenureRisesTo r.ceiling

/-- The tenure rises to the floor (R70). -/
def ObjectRec.reachesFloor (r : ObjectRec) : Bool := r.tenureRisesTo (r.floor.setWidth 16)

/-- The owed advance of an object is an expiry, a step of its own. -/
def ObjectRec.expires (r : ObjectRec) : Bool :=
  r.settleFallsOut || r.yieldFallsOut || r.reachesCeiling || r.reachesFloor

/-- The owed counts advance by one TU: settle and yield remaining fall, the tenure rises (R68). -/
def ObjectRec.advanceOwed (r : ObjectRec) : ObjectRec :=
  { r with
    settleRemaining := if r.owed.settle then r.settleRemaining.map (· - 1) else r.settleRemaining
    yieldPending :=
      if r.owed.yield then r.yieldPending.map fun y => { y with remaining := y.remaining - 1 } else r.yieldPending
    tenure := if r.owed.tenure then saturatingRise16 r.tenure else r.tenure
    owed := Owed.none }

/-- An object at the end of a TU: it advances at once unless its event is an expiry (R68; log 3). -/
def ObjectRec.timeUnitEnds (r : ObjectRec) : ObjectRec :=
  if r.owe.expires then r.owe else r.owe.advanceOwed

/-- The ceiling test, made when the tenure has risen to a non-zero ceiling: a yield is asked if none is pending
(R71). -/
def ceilingTest (o : ObjNum) (s : State) : State :=
  if (s.obj o).yieldPending.isNone then askYield o .ceiling s else s

/-- The rest of a held object's event when no deadline occurs: the counts advance, then the ceiling test, then the
contention test, each if the tenure has just reached its mark (R68, steps 1 to 3). -/
def tenureEvent (o : ObjNum) (s : State) : State :=
  let r := s.obj o
  let s := s.modObj o ObjectRec.advanceOwed
  let s := if r.reachesCeiling then ceilingTest o s else s
  if r.reachesFloor then contentionTest o s else s

/-- The event of an object at the end of a TU, on the counts it still owes (R68). -/
def objectEvent (o : ObjNum) (s : State) : State :=
  if (s.obj o).settleFallsOut then settleExpires o s
  else if (s.obj o).yieldFallsOut then deadline o s
  else tenureEvent o s

/-! ### One waiter entry at the end of a TU -/

/-- A waiter entry at the end of a TU: a wait remaining above 1 falls; one of 1 owes its fall, which is its expiry
(R59, R60; log 3). -/
def Entry.timeUnitEnds (e : Entry) : Entry :=
  match e.waitRemaining with
  | none => e
  | some n => if n == 1 then { e with due := true } else { e with waitRemaining := some (n - 1) }

/-- The entry of `m` in the line of `o` owes its fall from 1. -/
def State.entryDue (s : State) (o : ObjNum) (m : Master) : Bool :=
  (s.obj o).line.any fun e => e.master == m && e.due

/-- A wait-limit expiry: the entry leaves its line and its master is posted WAIT_ENDED(EXPIRED) (R60). -/
def waitExpires (o : ObjNum) (m : Master) (s : State) : State :=
  (s.removeWaiter o m).post m (.waitEnded o .expired)

/-! ### Expiries still outstanding -/

/-- An expiry of the TU just ended. -/
inductive Expiry where
  | object (o : ObjNum)
  | entry (o : ObjNum) (m : Master)
  deriving DecidableEq, Repr

/-- An object owes some advance. -/
def Owed.any (w : Owed) : Bool := w.settle || w.yield || w.tenure

/-- The expiries that no step has taken yet. -/
def State.outstanding (s : State) : List Expiry :=
  ((allObjects.filter fun o => (s.obj o).owed.any).map Expiry.object) ++
    allObjects.flatMap fun o => ((s.obj o).line.filter Entry.due).map fun e => Expiry.entry o e.master

/-- Take one expiry. -/
def takeExpiry : Expiry → State → State
  | .object o, s => objectEvent o s
  | .entry o m, s => waitExpires o m s

/-- Take outstanding expiries, at most `n`, each time the one that the free order picks (R115, R151; log 4). -/
def takeOutstandingUpTo : Nat → State → State
  | 0, s => s
  | n + 1, s =>
    match s.outstanding with
    | [] => s
    | [e] => takeExpiry e s
    | e :: es =>
      takeOutstandingUpTo n
        (takeExpiry ((e :: es).getD (Config.expiryChoice s.choices % (e :: es).length) e)
          { s with choices := s.choices + 1 })

/-- Take every outstanding expiry: each one taken owes nothing more, and none adds another. -/
def takeOutstanding (s : State) : State := takeOutstandingUpTo s.outstanding.length s

/-! ### The time base -/

/-- The time base at the end of a TU (R150, R151). -/
def TimeBase.timeUnitEnds (t : TimeBase) : TimeBase :=
  { t with periodCount := 0, dividerInForce := t.divider, uptime := t.uptime + 1 }

/-- The line of an object at the end of a TU. -/
def ObjectRec.lineTimeUnitEnds (r : ObjectRec) : ObjectRec := { r with line := r.line.map Entry.timeUnitEnds }

/-- The end of a TU: the time base, every object and every waiter entry (R151). -/
def endTimeUnit (s : State) : State :=
  { s with
    timeBase := s.timeBase.timeUnitEnds
    objects := mapVector (fun r => r.timeUnitEnds.lineTimeUnitEnds) s.objects }

/-- A period of RCLK while RUNNING, with no expiry outstanding: the period count rises, or the TU ends (R150). -/
def countPeriod (s : State) : State :=
  if s.timeBase.periodCount < s.timeBase.dividerInForce then
    { s with timeBase := { s.timeBase with periodCount := s.timeBase.periodCount + 1 } }
  else endTimeUnit s

end Sys2Proof.Machine
end

