-- ==== Sys2Proof/Machine/TimeUnits.lean ====
section
/-! DEFINITION. SET_TIME_BASE and the events of time: RCLK_PERIOD, TIME_UNIT_END and the expiries (Chapters 3, 4
and 9). None of them is an access, so the bus is idle (`offBus`). An event offered where its condition does not hold
does not occur, and changes no record (log 6). -/

namespace Sys2Proof.Machine

/-- The divider and the run state written by SET_TIME_BASE; the TU in progress keeps its length (R152). -/
def TimeBase.configure (t : TimeBase) (w : Word) : TimeBase :=
  { t with divider := dividerField w, runState := runStateField w }

/-- SET_TIME_BASE taken from `m` with port word `w`. Every expiry of a TU end taken before it has been carried out
(R153), so those still outstanding are taken first (log 4). -/
def setTimeBase (m : Master) (w : Word) (s : State) : State :=
  s.checked m 0 [(notSupervisor m s, .notPrivileged), (bitsOutside w timeBaseMask, .badOperand)] fun s =>
    let s := takeOutstanding s
    ({ s with timeBase := s.timeBase.configure w } : State).answer m (ResultRec.done 0)

/-- SET_TIME_BASE (R152, R153). -/
def execSetTimeBase (m : Master) (w : Word) (s : State) : Host.Outcome State Fault Refusal :=
  answerWindow s (setTimeBase m w)

/-- RCLK_PERIOD: while RUNNING a period is counted, and while STOPPED it is not (R150). -/
def execRclkPeriod (s : State) : Host.Outcome State Fault Refusal :=
  offBus s fun s => if s.timeBase.runState == .running then countPeriod (takeOutstanding s) else s

/-- TIME_UNIT_END: while RUNNING, the periods still owed to the present TU pass and the TU ends (R150, R151; log 5);
while STOPPED no TU ends. -/
def execTimeUnitEnd (s : State) : Host.Outcome State Fault Refusal :=
  offBus s fun s => if s.timeBase.runState == .running then endTimeUnit (takeOutstanding s) else s

/-- DEADLINE at object `o`: the yield remaining falls from 1 (R77 to R80). -/
def execDeadline (o : ObjNum) (s : State) : Host.Outcome State Fault Refusal :=
  offBus s fun s => if (s.obj o).yieldFallsOut then deadline o s else s

/-- SETTLE_EXPIRY at object `o`: the settle remaining falls from 1 (R85). -/
def execSettleExpiry (o : ObjNum) (s : State) : Host.Outcome State Fault Refusal :=
  offBus s fun s => if (s.obj o).settleFallsOut then settleExpires o s else s

/-- WAIT_LIMIT_EXPIRY of the entry of `m` in the line of `o`: its wait remaining falls from 1 (R60). -/
def execWaitLimitExpiry (o : ObjNum) (m : Master) (s : State) : Host.Outcome State Fault Refusal :=
  offBus s fun s => if s.entryDue o m then waitExpires o m s else s

/-- TENURE_REACHES_CEILING at object `o`: the tenure rises to a non-zero ceiling, in an event that is no deadline
(R68, R71). -/
def execTenureReachesCeiling (o : ObjNum) (s : State) : Host.Outcome State Fault Refusal :=
  offBus s fun s => if (s.obj o).reachesCeiling && !(s.obj o).yieldFallsOut then tenureEvent o s else s

/-- TENURE_REACHES_FLOOR at object `o`: the tenure rises to the floor, in an event that is no deadline (R68, R70). -/
def execTenureReachesFloor (o : ObjNum) (s : State) : Host.Outcome State Fault Refusal :=
  offBus s fun s => if (s.obj o).reachesFloor && !(s.obj o).yieldFallsOut then tenureEvent o s else s

end Sys2Proof.Machine
end

