-- ==== Sys2Proof/Machine/Views.lean ====
section
/-! DEFINITION. Every word that a window read returns (R161 to R172, Tables 10-4 to 10-6). `put lo x` places the
field `x` with its low bit at bit `lo`. -/

namespace Sys2Proof.Machine

/-- A field of a word, its low bit at bit `lo`. -/
def put {n : Nat} (lo : Nat) (x : BitVec n) : Word := x.setWidth 32 <<< lo

/-- A one-bit field. -/
def flag (lo : Nat) (b : Bool) : Word := put lo (BitVec.ofBool b)

/-- A number as a field of `n` bits. -/
def num (n lo k : Nat) : Word := put lo (BitVec.ofNat n k)

/-! ### Codes -/

/-- State codes (Table 10-5). -/
def stateCode : ObjState → BitVec 3
  | .offline => 0
  | .free => 1
  | .heldExclusive => 2
  | .heldShared => 3
  | .settling => 4

/-- Standing codes (Table 10-4). -/
def standingCode : Standing → BitVec 3
  | .good => 0
  | .warned => 1
  | .restricted => 2
  | .barred => 3

/-- Outcome codes (Table 10-4). -/
def outcomeCode : CmdOutcome → BitVec 3
  | .none => 0
  | .done => 1
  | .granted => 2
  | .queued => 3
  | .refused => 4

/-- Reason codes, 1 to 19 in the order of Table 2-2 (Table 10-4). -/
def reasonCode : Reason → BitVec 5
  | .badOperand => 1
  | .notPrivileged => 2
  | .barred => 3
  | .offline => 4
  | .holderSelf => 5
  | .alreadyWaiting => 6
  | .modeNotAllowed => 7
  | .busy => 8
  | .restricted => 9
  | .quota => 10
  | .poolEmpty => 11
  | .notHolder => 12
  | .notWaiting => 13
  | .notOffline => 14
  | .notHeld => 15
  | .alreadyOnline => 16
  | .lastSupervisor => 17
  | .queueEmpty => 18
  | .logEmpty => 19

/-- The reason field: 0 for none (Table 10-4). -/
def reasonField : Option Reason → BitVec 5
  | none => 0
  | some r => reasonCode r

/-- View kind codes (Table 10-4). -/
def viewKindCode : ViewKind → BitVec 2
  | .object => 0
  | .lineEntry => 1
  | .master => 2
  | .guardWindow => 3

/-- Mode: 1 SHARED. -/
def modeBit (mode : Mode) : Bool := mode == .shared

/-- Yield reason: 1 CEILING. -/
def yieldReasonBit (reason : YieldReason) : Bool := reason == .ceiling

/-- REVOKED causes (Table 10-6). -/
def revokeCauseCode : RevokeCause → BitVec 3
  | .deadline => 0
  | .supervisor => 1
  | .barred => 2
  | .offline => 3

/-- WAIT_ENDED causes (Table 10-6). -/
def waitEndCauseCode : WaitEndCause → BitVec 3
  | .expired => 0
  | .offline => 1
  | .barred => 2

/-! ### Event records as fields (Table 6-1, Table 10-6) -/

/-- The kind code of an event record. -/
def Notice.kindCode : Notice → BitVec 4
  | .granted _ _ _ => 1
  | .yieldAsked _ _ _ => 2
  | .revoked _ _ => 3
  | .waitEnded _ _ => 4
  | .freed _ => 5
  | .watchEnded _ => 6
  | .standing _ _ => 7
  | .cleared _ => 8
  | .faultDeadline _ _ => 9
  | .faultBarred _ => 9
  | .logPending => 10

/-- The detail of an event record, encoded by kind. -/
def Notice.detailCode : Notice → BitVec 3
  | .granted _ mode _ => (BitVec.ofBool (modeBit mode)).setWidth 3
  | .yieldAsked _ reason _ => (BitVec.ofBool (yieldReasonBit reason)).setWidth 3
  | .revoked _ cause => revokeCauseCode cause
  | .waitEnded _ cause => waitEndCauseCode cause
  | .freed _ => 0
  | .watchEnded _ => 0
  | .standing now _ => standingCode now
  | .cleared _ => 0
  | .faultDeadline _ _ => 0
  | .faultBarred _ => 1
  | .logPending => 0

/-- The object of an event record, if its kind carries one. -/
def Notice.object? : Notice → Option ObjNum
  | .granted o _ _ => some o
  | .yieldAsked o _ _ => some o
  | .revoked o _ => some o
  | .waitEnded o _ => some o
  | .freed o => some o
  | .watchEnded o => some o
  | .standing _ _ => none
  | .cleared _ => none
  | .faultDeadline _ o => some o
  | .faultBarred _ => none
  | .logPending => none

/-- The other master of an event record; 0 for a kind that carries none. -/
def Notice.otherMaster : Notice → Nat
  | .granted _ _ _ => 0
  | .yieldAsked _ _ _ => 0
  | .revoked _ _ => 0
  | .waitEnded _ _ => 0
  | .freed _ => 0
  | .watchEnded _ => 0
  | .standing _ _ => 0
  | .cleared supervisor => supervisor.val
  | .faultDeadline faulting _ => faulting.val
  | .faultBarred faulting => faulting.val
  | .logPending => 0

/-- The tag of an event record; 0 for a kind that carries none. -/
def Notice.tag : Notice → BitVec 8
  | .granted _ _ tag => tag
  | .yieldAsked _ _ _ => 0
  | .revoked _ _ => 0
  | .waitEnded _ _ => 0
  | .freed _ => 0
  | .watchEnded _ => 0
  | .standing _ _ => 0
  | .cleared _ => 0
  | .faultDeadline _ _ => 0
  | .faultBarred _ => 0
  | .logPending => 0

/-- The value of an event record; 0 for a kind that carries none. -/
def Notice.value : Notice → BitVec 8
  | .granted _ _ _ => 0
  | .yieldAsked _ _ allowance => allowance
  | .revoked _ _ => 0
  | .waitEnded _ _ => 0
  | .freed _ => 0
  | .watchEnded _ => 0
  | .standing _ score => score
  | .cleared _ => 0
  | .faultDeadline _ _ => 0
  | .faultBarred _ => 0
  | .logPending => 0

/-! ### Views (R162 to R167, Table 10-5) -/

/-- Bits 31 and 30-29 of every VIEW_0: valid and the view kind. -/
def viewHead (valid : Bool) (kind : ViewKind) : Word := flag 31 valid ||| put 29 (viewKindCode kind)

/-- The yield's remaining count; 0 for an absent yield (R164). -/
def yieldRemainingField (y : Option YieldPending) : BitVec 8 := (y.map YieldPending.remaining).getD 0

/-- The yield's reason bit; 0 for an absent yield (R164). -/
def yieldReasonField (y : Option YieldPending) : Bool := (y.map fun y => yieldReasonBit y.reason).getD false

/-- The object view (R164). -/
def objectView (r : ObjectRec) : Snapshot where
  word0 := viewHead true .object ||| put 26 (stateCode r.state) ||| flag 25 (r.objClass == .shareable) |||
    flag 24 r.contentionYield ||| num 4 20 r.line.length ||| put 12 r.holders ||| put 4 r.watchers |||
    flag 3 r.yieldPending.isSome ||| flag 2 (yieldReasonField r.yieldPending)
  word1 := put 16 r.tenure ||| put 8 (yieldRemainingField r.yieldPending) ||| put 0 (r.settleRemaining.getD 0)
  word2 := put 16 r.ceiling ||| put 8 r.floor ||| put 0 r.allowance
  word3 := put 16 r.grantCount ||| put 8 r.revokeCount ||| put 0 r.settle

/-- The entry at a position of a line, counted from 1 at the head; none for 0 or beyond its length (R53, R165). -/
def entryAt (line : List Entry) (position : BitVec 4) : Option Entry :=
  if position == 0 then none else (line.drop (position.toNat - 1)).head?

/-- The line-entry view of an object and a position (R165). That VIEW_1 bits 31-16 read 0 for an entry with no wait
remaining is the model's choice: R165 and Table 10-5 give them no value (DESIGN CHOICE, unsafe; log 20). -/
def lineEntryView (index : BitVec 6) (position : BitVec 4) (r : ObjectRec) : Snapshot :=
  match entryAt r.line position with
  | some e =>
    { word0 := viewHead true .lineEntry ||| put 23 index ||| put 19 position ||| num 3 16 e.master.val |||
        flag 15 (modeBit e.mode) ||| put 11 e.priority ||| flag 10 e.waitRemaining.isSome
      word1 := put 16 (e.waitRemaining.getD 0) ||| put 0 e.tag
      word2 := num 4 0 r.line.length
      word3 := 0 }
  | none =>
    { word0 := viewHead false .lineEntry ||| put 23 index ||| put 19 position
      word1 := 0
      word2 := num 4 0 r.line.length
      word3 := 0 }

/-- The master view (R166). -/
def masterView (s : State) (m : Master) : Snapshot where
  word0 := viewHead true .master ||| num 3 26 m.val ||| put 16 (s.mst m).score ||| put 10 (s.mst m).quota |||
    num 6 4 (s.waitsHeld m) ||| flag 3 (s.mst m).supervisor ||| flag 2 (s.mst m).attention |||
    flag 1 (s.mst m).overflow
  word1 := put 24 (s.mst m).nextSeq ||| num 4 20 (s.mst m).queue.length ||| flag 19 (s.atn m)
  word2 := 0
  word3 := 0

/-- The guard window view (R167). -/
def guardView (s : State) (i : WindowNum) : Snapshot :=
  let g := s.win i
  { word0 := viewHead true .guardWindow ||| num 4 25 i.val ||| flag 24 g.enable |||
      flag 23 (g.kind == .accessGuard) ||| flag 22 (g.action == .deny) ||| flag 21 (s.windowActive g) ||| put 0 g.base
    word1 := num 6 20 g.object.val ||| put 0 g.limit
    word2 := 0
    word3 := 0 }

/-- A view that selects no record: the view kind alone (Table 10-5, note). -/
def emptyView (kind : ViewKind) : Snapshot where
  word0 := viewHead false kind
  word1 := 0
  word2 := 0
  word3 := 0

/-- The record that VIEW_SELECT selects, as it stands now (R162, R163). -/
def selectedView (s : State) (v : ViewSelect) : Snapshot :=
  match v.kind with
  | .object => objectView (s.obj v.index.toFin)
  | .lineEntry => lineEntryView v.index v.position (s.obj v.index.toFin)
  | .master => if h : v.index.toNat < 8 then masterView s ⟨v.index.toNat, h⟩ else emptyView .master
  | .guardWindow => if h : v.index.toNat < 16 then guardView s ⟨v.index.toNat, h⟩ else emptyView .guardWindow

/-! ### Head words (R168, R169, Table 10-6) -/

/-- EVENT_HEAD_0: the head of the reader's own queue; 0 when it is empty (R168). -/
def eventHead0 (queue : List EventRecord) : Word :=
  match queue with
  | [] => 0
  | e :: _ =>
    flag 31 true ||| put 27 e.notice.kindCode ||| put 24 e.notice.detailCode ||| put 16 e.seq |||
      flag 15 e.notice.object?.isSome ||| num 6 8 ((e.notice.object?.map Fin.val).getD 0) |||
      num 3 4 e.notice.otherMaster ||| num 4 0 queue.length

/-- EVENT_HEAD_1: the tag and the value of the head; 0 when the queue is empty (R168). -/
def eventHead1 (queue : List EventRecord) : Word :=
  match queue with
  | [] => 0
  | e :: _ => put 8 e.notice.tag ||| put 0 e.notice.value

/-- LOG_HEAD_0: the head of the violation log; 0 when it is empty (R169). -/
def logHead0 (log : List LogRecord) : Word :=
  match log with
  | [] => 0
  | l :: _ =>
    flag 31 true ||| num 5 26 log.length ||| num 4 22 l.window.val ||| num 6 16 l.object.val |||
      flag 15 (l.dir == .write) ||| flag 14 (l.cause == .sharedWrite) ||| put 11 (stateCode l.objState) |||
      num 3 8 l.master.val ||| put 0 l.suppressed

/-- LOG_HEAD_1: the word address in the positions of A31-A2 (R169). -/
def logHead1 (log : List LogRecord) : Word :=
  match log with
  | [] => 0
  | l :: _ => put 2 l.addr

/-- LOG_HEAD_2: the stamp (R169). -/
def logHead2 (log : List LogRecord) : Word :=
  match log with
  | [] => 0
  | l :: _ => put 0 l.stamp

/-! ### Status words (R161, R162, R170, Table 10-4) -/

/-- RESULT (R161). -/
def resultWord (r : ResultRec) : Word :=
  put 0 (outcomeCode r.outcome) ||| put 3 (reasonField r.reason) ||| put 8 r.echo ||| put 14 r.position ||| put 18 r.count

/-- SELF_STATUS of the reader (R170). -/
def selfStatus (s : State) (m : Master) : Word :=
  put 0 (s.mst m).score ||| put 8 (s.mst m).quota ||| num 6 14 (s.waitsHeld m) ||| flag 20 (s.mst m).supervisor |||
    flag 21 (s.mst m).attention ||| flag 22 (s.mst m).overflow ||| put 23 (s.mst m).nextSeq

/-- VIEW_SELECT as read: its three fields, 0 elsewhere (R162). -/
def viewSelectWord (v : ViewSelect) : Word :=
  put 16 (viewKindCode v.kind) ||| put 8 v.index ||| put 0 v.position

/-- TIME_BASE_STATUS (R170). -/
def timeBaseStatus (t : TimeBase) : Word := put 0 t.divider ||| flag 16 (t.runState == .running)

/-- ID (R170). -/
def idWord : Word := 0x26400001#32

/-- The word that a read of the window by `m` returns when it is answered, for every offset of Table 10-1; while RESET
is asserted no read is answered and no word is driven (`answerWindow`). Command ports and unassigned offsets read 0
(R157). -/
def State.readWindow (s : State) (m : Master) (offset : WindowOffset) : Word :=
  match byteOffset offset with
  | 0x00 => idWord
  | 0x04 => (s.port m).operandA
  | 0x08 => (s.port m).operandB
  | 0x0C => resultWord (s.port m).result
  | 0x10 => eventHead0 (s.mst m).queue
  | 0x14 => eventHead1 (s.mst m).queue
  | 0x18 => selfStatus s m
  | 0x1C => viewSelectWord (s.port m).viewSelect
  | 0x20 => (selectedView s (s.port m).viewSelect).word0
  | 0x24 => (s.port m).snapshot.word1
  | 0x28 => (s.port m).snapshot.word2
  | 0x2C => (s.port m).snapshot.word3
  | 0x30 => logHead0 s.log
  | 0x34 => logHead1 s.log
  | 0x38 => logHead2 s.log
  | 0x3C => s.timeBase.uptime
  | 0x40 => timeBaseStatus s.timeBase
  | 0x44 => num 7 0 s.poolFree
  | _ => 0

end Sys2Proof.Machine
end

