-- ==== Sys2Proof/Machine/Waiting.lean ====
section
/-! DEFINITION. WITHDRAW (Chapter 3). -/

namespace Sys2Proof.Machine

/-- The checks of a WITHDRAW, in order (R55). -/
def withdrawChecks (m : Master) (w : Word) (s : State) : List (Bool × Reason) :=
  [ (bitsOutside w objectMask, .badOperand),
    (!s.isWaiting m (objectField w), .notWaiting) ]

/-- WITHDRAW taken from `m` with port word `w` (R55, R56). -/
def withdraw (m : Master) (w : Word) (s : State) : State :=
  s.checked m (objectEcho w) (withdrawChecks m w s) fun s =>
    (s.removeWaiter (objectField w) m).answer m (ResultRec.done (objectEcho w))

/-- WITHDRAW (R55 to R58). -/
def execWithdraw (m : Master) (w : Word) (s : State) : Host.Outcome State Fault Refusal := answerWindow s (withdraw m w)

end Sys2Proof.Machine
end

