-- ==== Sys2Proof/Machine/BusPort.lean ====
section
/-! DEFINITION. READ_VIEW_0, REGISTER_WRITE, RESET and RESET_RELEASE (Chapters 10 and 11). -/

namespace Sys2Proof.Machine

/-! ### READ_VIEW_0 and the other window reads -/

/-- The snapshot of a read of VIEW_0: the selected record is copied into `m`'s snapshot (R163). -/
def takeSnapshot (m : Master) (s : State) : State :=
  s.modPort m fun p => { p with snapshot := selectedView s p.viewSelect }

/-- A read of the window: a read of VIEW_0 takes its reader's snapshot (R163), a read at any other offset changes no
record (R157, R161, R163, R168 to R170), and the word read is driven (R155). -/
def windowRead (r : WindowRead) (s : State) : State :=
  { (if r.offset == view0Offset then takeSnapshot r.master s else s) with
    dataOut := some (s.readWindow r.master r.offset) }

/-- READ_VIEW_0 is the read at VIEW_0's offset (R163); the reads at the other offsets, which have no row, are
answered by the same access (R155; log 17). -/
def execReadView0 (r : WindowRead) (s : State) : Host.Outcome State Fault Refusal := answerWindow s (windowRead r)

/-! ### REGISTER_WRITE -/

/-- A whole-word write to a register: OPERAND_A, OPERAND_B and VIEW_SELECT store into the writer's copy; a write to
any other offset is acknowledged and ignored (R157, R159, R162). -/
def writeRegister (m : Master) (offset : WindowOffset) (data : Word) (s : State) : State :=
  match byteOffset offset with
  | 0x04 => s.modPort m fun p => { p with operandA := data }
  | 0x08 => s.modPort m fun p => { p with operandB := data }
  | 0x1C => s.modPort m fun p => { p with viewSelect := viewSelectOf data }
  | _ => s

/-- A whole-word write at an offset of the window: at a command port it is that port's command (R160, Table 10-1;
log 9), elsewhere a register write. -/
def wholeWordWrite (m : Master) (offset : WindowOffset) (data : Word) (s : State) :
    Host.Outcome State Fault Refusal :=
  match byteOffset offset with
  | 0x80 => execClaim m data s
  | 0x84 => execRelease m data s
  | 0x88 => execWithdraw m data s
  | 0x8C => execWatch m data s
  | 0x90 => execUnwatch m data s
  | 0x94 => execAckEvent m data s
  | 0x98 => execClearOverflow m data s
  | 0x9C => execSetAttention m data s
  | 0xA0 => execResetSelf m data s
  | 0xC0 => execConfigObject m data s
  | 0xC4 => execOnline m data s
  | 0xC8 => execOffline m data s
  | 0xCC => execRevoke m data s
  | 0xD0 => execSetQuota m data s
  | 0xD4 => answerWindow s (setStanding m data)
  | 0xD8 => execSetSupervisor m data s
  | 0xDC => execClearMaster m data s
  | 0xE0 => execConfigGuard m data s
  | 0xE4 => execAckLog m data s
  | 0xE8 => execSetTimeBase m data s
  | _ => answerWindow s (writeRegister m offset data)

/-- REGISTER_WRITE: a write without all four byte enables is acknowledged and ignored at every offset (R156). -/
def execRegisterWrite (m : Master) (offset : WindowOffset) (byteEnables : BitVec 4) (data : Word) (s : State) :
    Host.Outcome State Fault Refusal :=
  if wholeWord byteEnables then wholeWordWrite m offset data s else answerWindow s fun s => s

/-! ### RESET and its release -/

/-- Every record at its power-on value, the waiting commands and the free counter kept (R9, R174; log 11). -/
def State.powerOn (s : State) : State := { State.reset with pending := s.pending, choices := s.choices }

/-- RESET: every record takes its power-on value, and the input stays asserted until it is released (R155, R174). -/
def execReset (s : State) : Host.Outcome State Fault Refusal := .next { s.powerOn with resetAsserted := true }

/-- RESET_RELEASE: the input is released; the next access is answered from the power-on values (R155). -/
def execResetRelease (s : State) : Host.Outcome State Fault Refusal := offBus s fun s => { s with resetAsserted := false }

end Sys2Proof.Machine
end

