-- ==== Sys2Proof/Machine/Dispatch.lean ====
section
/-! DEFINITION. The one match from commands to their meanings. -/

namespace Sys2Proof.Machine

def exec (i : Instr) (s : State) : Host.Outcome State Fault Refusal :=
  match i with
  | .claim m w => Sys2Proof.Machine.execClaim m w s
  | .release m w => Sys2Proof.Machine.execRelease m w s
  | .withdraw m w => Sys2Proof.Machine.execWithdraw m w s
  | .watch m w => Sys2Proof.Machine.execWatch m w s
  | .unwatch m w => Sys2Proof.Machine.execUnwatch m w s
  | .ackEvent m w => Sys2Proof.Machine.execAckEvent m w s
  | .clearOverflow m w => Sys2Proof.Machine.execClearOverflow m w s
  | .setAttention m w => Sys2Proof.Machine.execSetAttention m w s
  | .resetSelf m w => Sys2Proof.Machine.execResetSelf m w s
  | .configObject m w => Sys2Proof.Machine.execConfigObject m w s
  | .online m w => Sys2Proof.Machine.execOnline m w s
  | .offline m w => Sys2Proof.Machine.execOffline m w s
  | .revoke m w => Sys2Proof.Machine.execRevoke m w s
  | .setQuota m w => Sys2Proof.Machine.execSetQuota m w s
  | .readmit m w => Sys2Proof.Machine.execReadmit m w s
  | .bar m w => Sys2Proof.Machine.execBar m w s
  | .setSupervisor m w => Sys2Proof.Machine.execSetSupervisor m w s
  | .clearMaster m w => Sys2Proof.Machine.execClearMaster m w s
  | .configGuard m w => Sys2Proof.Machine.execConfigGuard m w s
  | .ackLog m w => Sys2Proof.Machine.execAckLog m w s
  | .setTimeBase m w => Sys2Proof.Machine.execSetTimeBase m w s
  | .readView0 r => Sys2Proof.Machine.execReadView0 r s
  | .registerWrite m offset byteEnables data => Sys2Proof.Machine.execRegisterWrite m offset byteEnables data s
  | .observation m addr dir => Sys2Proof.Machine.execObservation m addr dir s
  | .reset => Sys2Proof.Machine.execReset s
  | .timeUnitEnd => Sys2Proof.Machine.execTimeUnitEnd s
  | .deadline o => Sys2Proof.Machine.execDeadline o s
  | .settleExpiry o => Sys2Proof.Machine.execSettleExpiry o s
  | .waitLimitExpiry o m => Sys2Proof.Machine.execWaitLimitExpiry o m s
  | .tenureReachesCeiling o => Sys2Proof.Machine.execTenureReachesCeiling o s
  | .tenureReachesFloor o => Sys2Proof.Machine.execTenureReachesFloor o s
  | .rclkPeriod => Sys2Proof.Machine.execRclkPeriod s
  | .resetRelease => Sys2Proof.Machine.execResetRelease s

end Sys2Proof.Machine
end

