-- ==== Sys2Proof/Safety.lean ====
section
/-! DEFINITION. What holds of the part between its steps, in the terms the claims use: the ranges and relations
that the rules state of every record (R3, R4, R8, R47, R73, R91, R104, R110, R140). -/

namespace Sys2Proof.Machine

/-! ### Lines and the pool -/

/-- The number of waiter entries that stand in lines (R47). -/
def State.entriesInUse (s : State) : Nat := (allObjects.map fun o => (s.obj o).line.length).sum

/-- Free entries and entries in lines are 96 together (R47). -/
def State.PoolConserved (s : State) : Prop := s.poolFree + s.entriesInUse = poolSize

/-- A line in order: priorities never increase from head to tail (R50). -/
def LineOrdered (line : List Entry) : Prop := line.Pairwise fun a b => b.priority ≤ a.priority

/-- No master has two entries in one line (R4). -/
def LineDistinct (line : List Entry) : Prop := line.Pairwise fun a b => a.master ≠ b.master

/-- Every line is in order (R50). -/
def State.LinesOrdered (s : State) : Prop := ∀ o, LineOrdered (s.obj o).line

/-! ### One object record -/

/-- The fields that Table 1-2 gives for each state, with one holder in HELD-EXCLUSIVE (R3, R8). -/
def ObjectRec.Row (r : ObjectRec) : Prop :=
  match r.state with
  | .offline =>
    r.holders = 0 ∧ r.line = [] ∧ r.tenure = 0 ∧ r.yieldPending = none ∧ r.settleRemaining = none ∧ r.watchers = 0
  | .free =>
    r.holders = 0 ∧ r.line = [] ∧ r.tenure = 0 ∧ r.yieldPending = none ∧ r.settleRemaining = none ∧ r.watchers = 0
  | .heldExclusive => (∃ m, r.holders = single m) ∧ r.settleRemaining = none
  | .heldShared => r.holders ≠ 0 ∧ r.settleRemaining = none
  | .settling =>
    r.holders = 0 ∧ r.tenure = 0 ∧ r.yieldPending = none ∧ ∃ n, r.settleRemaining = some n ∧ n ≠ 0

/-- The counts an object owes are counts it has (log 3). -/
def ObjectRec.OwedCounts (r : ObjectRec) : Prop :=
  (r.owed.settle = true → r.state = .settling) ∧
    (r.owed.yield = true → r.isHeld = true ∧ r.yieldPending.isSome = true) ∧
    (r.owed.tenure = true → r.isHeld = true)

/-- An object record between steps: its row of Table 1-2 (R8), no holder waiting and no master waiting twice (R4),
its line in order (R50), its allowance and its yield's remaining count at least 1 (R1, R73), a line of SHARED
claims only where the class allows them (R48). -/
structure ObjectRec.Inv (r : ObjectRec) : Prop where
  row : r.Row
  owed : r.OwedCounts
  lineOrdered : LineOrdered r.line
  lineDistinct : LineDistinct r.line
  noHolderWaits : ∀ e ∈ r.line, isMember r.holders e.master = false
  allowance : r.allowance ≠ 0
  yieldRemaining : ∀ y, r.yieldPending = some y → y.remaining ≠ 0
  waitRemaining : ∀ e ∈ r.line, e.waitRemaining ≠ some 0
  dueAtOne : ∀ e ∈ r.line, e.due = true → e.waitRemaining = some 1
  exclusiveOnly : r.objClass = .exclusiveOnly → r.state ≠ .heldShared ∧ ∀ e ∈ r.line, e.mode = .exclusive

/-! ### Masters -/

/-- Every event queue holds at most 8 records (R110). -/
def State.QueuesBounded (s : State) : Prop := ∀ m, (s.mst m).queue.length ≤ queueCapacity

/-- At least one master is a supervisor (R104). -/
def State.HasSupervisor (s : State) : Prop := ∃ m, (s.mst m).supervisor = true

/-- A master's standing is its score's (R92, R166). -/
def State.StandingFromScore (s : State) : Prop := ∀ m, (s.mst m).standing = standingOf (s.mst m).score

/-- Every quota lies between 0 and 32 (R90, R103). -/
def State.QuotasBounded (s : State) : Prop := ∀ m, (s.mst m).quota.toNat ≤ 32

/-- No master stands in more than 32 waiter lines (R49). -/
def State.WaitsBounded (s : State) : Prop := ∀ m, s.waitsHeld m ≤ 32

/-- A BARRED master holds no object, stands in no line and is in no watch set (R91). -/
def State.BarredHoldsNothing (s : State) : Prop :=
  ∀ m, (s.mst m).standing = .barred → ∀ o,
    isMember (s.obj o).holders m = false ∧ s.isWaiting m o = false ∧ isMember (s.obj o).watchers m = false

/-! ### The log and the time base -/

/-- The violation log holds at most 16 records, none of an OFFLINE object (R140, R141). -/
def State.LogBounded (s : State) : Prop := s.log.length ≤ logCapacity ∧ ∀ l ∈ s.log, l.objState ≠ .offline

/-- The period count is at most the divider in force (R150). -/
def State.PeriodBounded (s : State) : Prop := s.timeBase.periodCount ≤ s.timeBase.dividerInForce

/-- While the time base is STOPPED no expiry is outstanding (R153, R154; log 4). -/
def State.StoppedOwesNothing (s : State) : Prop := s.timeBase.runState = .stopped → s.outstanding = []

/-! ### What a piece of work leaves unchanged -/

/-- The object records other than that of `o` are unchanged. -/
def State.OnlyObject (o : ObjNum) (s t : State) : Prop := ∀ p, p ≠ o → t.obj p = s.obj p

/-- A master record is unchanged but for what posting and clearing change: its queue, overflow flag and next
sequence (R106, R113, R114). -/
def MasterRec.SameConduct (a b : MasterRec) : Prop :=
  b.score = a.score ∧ b.standing = a.standing ∧ b.quota = a.quota ∧ b.supervisor = a.supervisor ∧
    b.attention = a.attention

/-- Work of the Object Table: it changes object records, the pool and, by posting, event queues; all else stands. -/
structure State.ObjectWork (s t : State) : Prop where
  ports : t.ports = s.ports
  windows : t.windows = s.windows
  log : t.log = s.log
  timeBase : t.timeBase = s.timeBase
  resetAsserted : t.resetAsserted = s.resetAsserted
  ack : t.ack = s.ack
  deny : t.deny = s.deny
  dataOut : t.dataOut = s.dataOut
  choices : t.choices = s.choices
  pending : t.pending = s.pending
  conduct : ∀ m, (s.mst m).SameConduct (t.mst m)

/-- The records that neither the Object Table nor the Master Table writes, and the waiting commands, stand. -/
structure State.SameDevices (s t : State) : Prop where
  windows : t.windows = s.windows
  log : t.log = s.log
  timeBase : t.timeBase = s.timeBase
  resetAsserted : t.resetAsserted = s.resetAsserted
  choices : t.choices = s.choices
  pending : t.pending = s.pending

/-- Master `m` holds no object, stands in no line and is in no watch set (R91, R97, R106). -/
def State.HoldsNothing (s : State) (m : Master) : Prop :=
  ∀ o, isMember (s.obj o).holders m = false ∧ s.isWaiting m o = false ∧ isMember (s.obj o).watchers m = false

/-- No master is at once a holder of an object and a waiter on it (R4). -/
def State.NoHolderWaits (s : State) : Prop := ∀ o, ∀ e ∈ (s.obj o).line, isMember (s.obj o).holders e.master = false

/-- A CLAIM of mode `mode` finds the object grantable (R28). -/
def ObjectRec.Grantable (r : ObjectRec) (mode : Mode) : Prop :=
  r.state = .free ∨ (r.state = .heldShared ∧ mode = .shared ∧ r.line = [] ∧ r.yieldPending = none)

/-- The configuration of an object, its six fields (R2). -/
def ObjectRec.SameConfiguration (a b : ObjectRec) : Prop :=
  b.objClass = a.objClass ∧ b.contentionYield = a.contentionYield ∧ b.floor = a.floor ∧ b.ceiling = a.ceiling ∧
    b.allowance = a.allowance ∧ b.settle = a.settle

/-! ### Handover and the deadline, as the records they leave (sections 2.4 and 4.5) -/

/-- The entries that a handover grants and those it leaves in the line: an EXCLUSIVE head alone (R42), a SHARED head
with the SHARED entries behind it up to the first EXCLUSIVE one (R43). -/
structure BatchOf (line batch left : List Entry) : Prop where
  split : line = batch ++ left
  exclusive : ∀ e, line.head? = some e → e.mode = .exclusive → batch = [e]
  shared : ∀ e, line.head? = some e → e.mode = .shared →
    (∀ x ∈ batch, x.mode = .shared) ∧ ∀ x, left.head? = some x → x.mode = .exclusive

/-- The contention test at the end of a handover asks a yield: the new tenure is 0, so with contention yield on, an
entry left in the line and a floor of 0 (R45, R69). -/
def ObjectRec.yieldsAtHandover (r : ObjectRec) (left : List Entry) : Bool :=
  r.contentionYield && !left.isEmpty && r.floor == 0

/-- What handover from step 2 makes of the record `r` of an object whose holder set has emptied: FREE when no entry is
granted (R41), else held by the masters of the entries granted, in the mode of the head (R42 to R45). -/
def ObjectRec.handedOver (r : ObjectRec) (batch left : List Entry) : ObjectRec :=
  match batch with
  | [] =>
    { r with
      state := .free, holders := 0, line := left, tenure := 0, yieldPending := none, watchers := 0, owed := Owed.none }
  | e :: _ =>
    { r with
      state := if e.mode = .exclusive then .heldExclusive else .heldShared
      holders := setOf (batch.map Entry.master)
      line := left
      tenure := 0
      yieldPending :=
        if r.yieldsAtHandover left then some { remaining := r.allowance, reason := .contention } else none
      grantCount := r.grantCount + BitVec.ofNat 16 batch.length
      owed := Owed.none }

/-- What the same handover of object `o` posts to master `k`: FREED to each watcher when no entry is granted (R41);
else GRANTED to the master of each entry granted, and after it YIELD_ASKED to each if a yield is asked (R44, R45). -/
def MasterRec.handedOver (x : MasterRec) (o : ObjNum) (r : ObjectRec) (batch left : List Entry) (k : Master) :
    MasterRec :=
  match batch with
  | [] => if isMember r.watchers k then x.post (.freed o) else x
  | _ :: _ =>
    let granted := (batch.filter fun e => e.master = k).foldl (fun x e => x.post (.granted o e.mode e.tag)) x
    if r.yieldsAtHandover left && batch.any fun e => e.master = k then
      granted.post (.yieldAsked o .contention r.allowance)
    else granted

/-! ### The removal of a master from every object: the cascade and the clearing (sections 5.3 and 5.7) -/

/-- The record without master `n` in its holder set and its watch set. -/
def ObjectRec.without (r : ObjectRec) (n : Master) : ObjectRec :=
  { r with holders := removeMember r.holders n, watchers := removeMember r.watchers n }

/-- `n` is the one holder. -/
def ObjectRec.heldAloneBy (r : ObjectRec) (n : Master) : Bool :=
  isMember r.holders n && removeMember r.holders n == 0

/-- The removal of `n` empties the holder set and handover goes on at step 2: the emptying is voluntary, or settle is 0
(R40). -/
def ObjectRec.handsOverWithout (r : ObjectRec) (n : Master) (forced : Bool) : Bool :=
  r.heldAloneBy n && (!forced || r.settle == 0)

/-- Master `n` is removed from every object between `s` and `t`, the emptyings forced (R96, R97) or voluntary (R106):
an object held with others keeps them, its tenure and its yield; one held alone enters SETTLING after a forced emptying
with settle non-zero, and else is handed over to `batch`, with `left` left in its line; one not held loses the entries
and the watch of `n` alone. -/
structure State.WithoutMaster (n : Master) (forced : Bool) (s t : State) (batch left : ObjNum → List Entry) :
    Prop where
  heldWithOthers : ∀ o, isMember (s.obj o).holders n = true → (s.obj o).heldAloneBy n = false →
    t.obj o = (s.obj o).without n
  settles : ∀ o, (s.obj o).heldAloneBy n = true → (s.obj o).handsOverWithout n forced = false →
    t.obj o =
      { (s.obj o).without n with
        state := .settling, tenure := 0, yieldPending := none, settleRemaining := some (s.obj o).settle
        owed := Owed.none }
  handsOver : ∀ o, (s.obj o).handsOverWithout n forced = true →
    BatchOf (s.obj o).line (batch o) (left o) ∧ t.obj o = ((s.obj o).without n).handedOver (batch o) (left o)
  notHeld : ∀ o, isMember (s.obj o).holders n = false →
    t.obj o = { (s.obj o).without n with line := (s.obj o).line.filter fun e => e.master ≠ n }
  pool : t.poolFree + t.entriesInUse = s.poolFree + s.entriesInUse

/-- What the handovers of that removal post to master `k`, by ascending object: FREED, or GRANTED and YIELD_ASKED. -/
def MasterRec.handoversWithout (x : MasterRec) (n : Master) (forced : Bool) (s : State)
    (batch left : ObjNum → List Entry) (k : Master) : MasterRec :=
  (allObjects.filter fun o => (s.obj o).handsOverWithout n forced).foldl (init := x) fun x o =>
    x.handedOver o ((s.obj o).without n) (batch o) (left o) k

/-- The clearing of master `n` takes `s` to `t`, but for `n`'s own record: `n` is removed from every object, each
emptying voluntary, and the other masters are posted the records of the handovers alone (R106). -/
structure State.Cleared (n : Master) (s t : State) (batch left : ObjNum → List Entry) : Prop where
  objects : s.WithoutMaster n false t batch left
  others : ∀ k, k ≠ n → t.mst k = (s.mst k).handoversWithout n false s batch left k

/-- The barring cascade of master `n` takes `s`, with the master records `before`, to `t`: `n` is removed from every
object, each emptying forced (R96, R97). `n` is posted STANDING(BARRED), FAULT_NOTICE(BARRED) if it is a supervisor,
REVOKED(BARRED) for each object held and WAIT_ENDED(BARRED) for each line, by ascending object; every other supervisor
is posted FAULT_NOTICE(BARRED), and every other master then the records of the handovers (R95 to R97). -/
structure State.CutOff (n : Master) (s : State) (before : Master → MasterRec) (t : State)
    (batch left : ObjNum → List Entry) : Prop where
  objects : s.WithoutMaster n true t batch left
  named : t.mst n =
    let told := (before n).post (.standing .barred (before n).score)
    let noticed := if (before n).supervisor then told.post (.faultBarred n) else told
    let revoked := (allObjects.filter fun o => isMember (s.obj o).holders n).foldl
      (fun x o => x.post (.revoked o .barred)) noticed
    (allObjects.filter fun o => s.isWaiting n o).foldl (fun x o => x.post (.waitEnded o .barred)) revoked
  others : ∀ k, k ≠ n →
    t.mst k =
      let noticed := if (before k).supervisor then (before k).post (.faultBarred n) else before k
      noticed.handoversWithout n true s batch left k

/-- The cascades of a list of masters, each carried out whole before the next begins (R79, R98). -/
inductive CascadesInTurn : List Master → State → State → Prop where
  | done (s : State) : CascadesInTurn [] s s
  | next (n : Master) (rest : List Master) (s u t : State) (batch left : ObjNum → List Entry) :
    s.CutOff n s.mst u batch left → CascadesInTurn rest u t → CascadesInTurn (n :: rest) s t

/-- A charge within a deadline: the score rises by 24, stopping at 255, the standing is recomputed, and STANDING is
posted if it changed to another than BARRED, whose record is the cascade's (R78, R92, R98). -/
def MasterRec.deadlineCharged (x : MasterRec) : MasterRec :=
  let score := BitVec.ofNat 8 (min 255 (x.score.toNat + 24))
  let now := if x.standing = .barred then .barred else standingOf score
  let charged := { x with score := score, standing := now }
  if now = x.standing ∨ now = .barred then charged else charged.post (.standing now score)

/-- What the first stage of a deadline at object `o` with holders `hs`, ascending, makes of master `k`: for each holder
in turn REVOKED(DEADLINE) to it, FAULT_NOTICE(DEADLINE) to every supervisor, and its charge (R78). -/
def MasterRec.deadlineRecords (x : MasterRec) (o : ObjNum) (hs : List Master) (k : Master) : MasterRec :=
  hs.foldl (init := x) fun x h =>
    let revoked := if k = h then x.post (.revoked o .deadline) else x
    let noticed := if revoked.supervisor then revoked.post (.faultDeadline h o) else revoked
    if k = h then noticed.deadlineCharged else noticed

/-! ### The expiries of one TU end -/

/-- Every expiry outstanding at `s` is taken, one after another in some order, and `t` is left (R115, R151). The counter
of the free order is the model's own, so it may stand at any value before each (log 4). -/
inductive AllTaken : State → State → Prop where
  | done (s : State) : s.outstanding = [] → AllTaken s s
  | take (s t : State) (e : Expiry) (n : Nat) : e ∈ s.outstanding → AllTaken (takeExpiry e { s with choices := n }) t →
    AllTaken s t

/-! ### Kinds of command -/

/-- The writer and the port word of a command-port write; none for the other rows (Table 10-1). -/
def portWrite : Instr → Option (Master × Word)
  | .claim m w => some (m, w)
  | .release m w => some (m, w)
  | .withdraw m w => some (m, w)
  | .watch m w => some (m, w)
  | .unwatch m w => some (m, w)
  | .ackEvent m w => some (m, w)
  | .clearOverflow m w => some (m, w)
  | .setAttention m w => some (m, w)
  | .resetSelf m w => some (m, w)
  | .configObject m w => some (m, w)
  | .online m w => some (m, w)
  | .offline m w => some (m, w)
  | .revoke m w => some (m, w)
  | .setQuota m w => some (m, w)
  | .readmit m w => some (m, w)
  | .bar m w => some (m, w)
  | .setSupervisor m w => some (m, w)
  | .clearMaster m w => some (m, w)
  | .configGuard m w => some (m, w)
  | .ackLog m w => some (m, w)
  | .setTimeBase m w => some (m, w)
  | .readView0 _ => none
  | .registerWrite _ _ _ _ => none
  | .observation _ _ _ => none
  | .reset => none
  | .timeUnitEnd => none
  | .deadline _ => none
  | .settleExpiry _ => none
  | .waitLimitExpiry _ _ => none
  | .tenureReachesCeiling _ => none
  | .tenureReachesFloor _ => none
  | .rclkPeriod => none
  | .resetRelease => none

/-- The writer of a supervisor command, with the object echo of its port word (R21, R104). -/
def supervisorWrite : Instr → Option (Master × BitVec 6)
  | .configObject m w => some (m, w.extractLsb' 0 6)
  | .online m w => some (m, w.extractLsb' 0 6)
  | .offline m w => some (m, w.extractLsb' 0 6)
  | .revoke m w => some (m, w.extractLsb' 0 6)
  | .setQuota m w => some (m, (w.extractLsb' 0 3).setWidth 6)
  | .readmit m w => some (m, (w.extractLsb' 0 3).setWidth 6)
  | .bar m w => some (m, (w.extractLsb' 0 3).setWidth 6)
  | .setSupervisor m w => some (m, (w.extractLsb' 0 3).setWidth 6)
  | .clearMaster m w => some (m, (w.extractLsb' 0 3).setWidth 6)
  | .configGuard m w => some (m, (w.extractLsb' 0 4).setWidth 6)
  | .ackLog m _ => some (m, 0)
  | .setTimeBase m _ => some (m, 0)
  | .claim _ _ => none
  | .release _ _ => none
  | .withdraw _ _ => none
  | .watch _ _ => none
  | .unwatch _ _ => none
  | .ackEvent _ _ => none
  | .clearOverflow _ _ => none
  | .setAttention _ _ => none
  | .resetSelf _ _ => none
  | .readView0 _ => none
  | .registerWrite _ _ _ _ => none
  | .observation _ _ _ => none
  | .reset => none
  | .timeUnitEnd => none
  | .deadline _ => none
  | .settleExpiry _ => none
  | .waitLimitExpiry _ _ => none
  | .tenureReachesCeiling _ => none
  | .tenureReachesFloor _ => none
  | .rclkPeriod => none
  | .resetRelease => none

/-- The master whose banked registers a window access reaches; none for what is no window access (R155, R158). -/
def windowAccess : Instr → Option Master
  | .readView0 r => some r.master
  | .registerWrite m _ _ _ => some m
  | i => (portWrite i).map Prod.fst

/-- The command is an access of the bus: a window access or an observed one (R155). -/
def isBusAccess : Instr → Bool
  | .observation _ _ _ => true
  | i => (windowAccess i).isSome

/-- The word of the window at a byte offset of Table 10-1. -/
def wordAt (byte : Nat) : WindowOffset := BitVec.ofNat 6 (byte / 4)

/-- `n` periods of RCLK, one after another. -/
def rclkPeriods : Nat → State → Host.Outcome State Fault Refusal
  | 0, s => .next s
  | n + 1, s =>
    match exec .rclkPeriod s with
    | .next t => rclkPeriods n t
    | .fault f => .fault f
    | .refused r => .refused r

/-! ### The whole part -/

/-- The part between its steps. -/
structure State.Inv (s : State) : Prop where
  objects : ∀ o, (s.obj o).Inv
  pool : s.PoolConserved
  queues : s.QueuesBounded
  supervisor : s.HasSupervisor
  standing : s.StandingFromScore
  quotas : s.QuotasBounded
  waits : s.WaitsBounded
  barred : s.BarredHoldsNothing
  log : s.LogBounded
  period : s.PeriodBounded
  stopped : s.StoppedOwesNothing

end Sys2Proof.Machine
end

