-- ==== Sys2Proof/WellFormed.lean ====
section
/-! DEFINITION. Which terms of Instr stand for a row of the table. Every port word is well formed: a malformed
one is a command the part takes and refuses (R24). Two rows share the SET_STANDING port, REGISTER_WRITE is
the row of the writes that are no command, and READ_VIEW_0 is the row of the reads at one offset; the checks keep
these rows apart from each other and from the reads that have no row. -/

namespace Sys2Proof

open Sys2Proof.Machine

/-- The term stands for its row of the table. -/
def Instr.wellFormed : Instr → Bool
  | .claim _ _ => true
  | .release _ _ => true
  | .withdraw _ _ => true
  | .watch _ _ => true
  | .unwatch _ _ => true
  | .ackEvent _ _ => true
  | .clearOverflow _ _ => true
  | .setAttention _ _ => true
  | .resetSelf _ _ => true
  | .configObject _ _ => true
  | .online _ _ => true
  | .offline _ _ => true
  | .revoke _ _ => true
  | .setQuota _ _ => true
  | .readmit _ w => standingAction w != actionBar
  | .bar _ w => standingAction w != actionReadmit
  | .setSupervisor _ _ => true
  | .clearMaster _ _ => true
  | .configGuard _ _ => true
  | .ackLog _ _ => true
  | .setTimeBase _ _ => true
  | .readView0 r => r.offset == view0Offset
  | .registerWrite _ offset byteEnables _ => !(isCommandOffset offset && wholeWord byteEnables)
  | .observation _ _ _ => true
  | .reset => true
  | .timeUnitEnd => true
  | .deadline _ => true
  | .settleExpiry _ => true
  | .waitLimitExpiry _ _ => true
  | .tenureReachesCeiling _ => true
  | .tenureReachesFloor _ => true
  | .rclkPeriod => true
  | .resetRelease => true

end Sys2Proof
end

