-- ==== Sys2Proof/Certificates/Slice0/Obligations.lean ====
section
/-! DEFINITION. The statements for the provers. In a statement about a command, `s.acknowledged` is the part with
the access acknowledged (ACK asserted, DENY deasserted, no data driven), which is all that the taking of a window
write adds to the command's own effect (R155; log 2). In a statement about an event that is no access, `s.deasserted` is
the part with the bus idle (ACK and DENY deasserted, no data driven; R136, R171; log 2). -/

open Sys2Proof Sys2Proof.Machine

/-! ### Step, reset and the RESET input -/

/-- A step carries out the command at the front of the queue on the part with the queue's rest; with no command
waiting every record stands, and the bus is idle, with ACK and DENY deasserted (R136) and no data driven (that an empty
queue is the idle bus is the model's choice, log 7). -/
def Obligations.StepRunsFront : Prop :=
  (∀ (c : Instr) (rest : List Instr) (s : State),
      step { s with pending := c :: rest } = exec c { s with pending := rest }) ∧
    ∀ s : State, step { s with pending := [] } =
      .next { s with pending := [], ack := false, deny := false, dataOut := none }

/-- The state after reset satisfies the invariant of the part. -/
def Obligations.ResetStateHasInv : Prop := State.reset.Inv

/-- The RESET input places every record in its power-on value, whatever it held (R9, R66, R90, R110, R126, R140,
R149, R158). That the waiting commands are kept is the model's choice (log 11). -/
def Obligations.ResetPlacesPowerOnValues : Prop :=
  ∀ s : State, ∃ t, exec .reset s = .next t ∧ t.resetAsserted = true ∧
    (∀ o, t.obj o =
      { state := .offline, objClass := .exclusiveOnly, contentionYield := false, floor := 0, ceiling := 0,
        allowance := 16, settle := 0, holders := 0, line := [], tenure := 0, yieldPending := none,
        settleRemaining := none, watchers := 0, grantCount := 0, revokeCount := 0, owed := Owed.none }) ∧
    (∀ m, t.mst m =
      { score := 0, standing := .good, quota := 12, supervisor := m == 0, attention := false, overflow := false,
        nextSeq := 0, queue := [] }) ∧
    (∀ m, t.port m =
      { operandA := 0, operandB := 0,
        result := { outcome := .none, reason := none, echo := 0, position := 0, count := 0 },
        viewSelect := { kind := .object, index := 0, position := 0 },
        snapshot := { word0 := 0, word1 := 0, word2 := 0, word3 := 0 } }) ∧
    (∀ i, t.win i = { enable := false, base := 0, limit := 0, object := 0, kind := .writeGuard, action := .log }) ∧
    t.timeBase = { runState := .stopped, divider := 999, dividerInForce := 999, periodCount := 0, uptime := 0 } ∧
    t.poolFree = 96 ∧ t.log = [] ∧ t.ack = false ∧ t.deny = false ∧ (∀ m, t.atn m = false) ∧ t.pending = s.pending

/-- While the RESET input is asserted no access is answered or taken: ACK and DENY are deasserted and every record
stands (R155, R174); the release of the input changes no record, and the bus is idle then (R136). -/
def Obligations.ResetHoldsOffAccesses : Prop :=
  (∀ (i : Instr) (s : State), isBusAccess i = true → s.resetAsserted = true →
      exec i s = .next { s with ack := false, deny := false, dataOut := none }) ∧
    (∀ (s : State) (m : Master), s.resetAsserted = true → s.atn m = false) ∧
    ∀ s : State, exec .resetRelease s =
      .next { s with resetAsserted := false, ack := false, deny := false, dataOut := none }

/-! ### CLAIM -/

/-- A CLAIM that passes the checks of R27 and finds its object FREE is granted at once: the writer is the one
holder, the state follows the mode, the tenure is 0, the grant count rises by one, the result reads GRANTED, and
nothing else changes (R29). -/
def Obligations.ClaimGrantedOnFree : Prop :=
  ∀ (m : Master) (w : Word) (s : State), s.resetAsserted = false → claimMalformed w (s.port m).operandA = false →
    (s.mst m).standing ≠ .barred → (s.obj (objectField w)).state = .free → (s.obj (objectField w)).Row →
    (claimMode w = .shared → (s.obj (objectField w)).objClass = .shareable) →
    exec (.claim m w) s = .next
      ((s.acknowledged.modObj (objectField w) fun r =>
          { r with
            state := if claimMode w = .exclusive then .heldExclusive else .heldShared
            holders := single m
            tenure := 0
            grantCount := r.grantCount + 1
            owed := Owed.none }).answer m
        { outcome := .granted, reason := none, echo := w.extractLsb' 0 6, position := 0, count := 0 })

/-- A SHARED CLAIM that passes the checks of R27 and finds its object HELD-SHARED with an empty line and no yield
pending joins the tenure: the writer is added to the holder set, the tenure keeps its count, the grant count rises
by one, the result reads GRANTED, and nothing else changes (R30). -/
def Obligations.ClaimJoinsSharedTenure : Prop :=
  ∀ (m : Master) (w : Word) (s : State), s.resetAsserted = false → claimMalformed w (s.port m).operandA = false →
    (s.mst m).standing ≠ .barred → (s.obj (objectField w)).state = .heldShared → claimMode w = .shared →
    (s.obj (objectField w)).objClass = .shareable → isMember (s.obj (objectField w)).holders m = false →
    (s.obj (objectField w)).line = [] → (s.obj (objectField w)).yieldPending = none →
    exec (.claim m w) s = .next
      ((s.acknowledged.modObj (objectField w) fun r =>
          { r with holders := addMember r.holders m, grantCount := r.grantCount + 1 }).answer m
        { outcome := .granted, reason := none, echo := w.extractLsb' 0 6, position := 0, count := 0 })

/-- R31: a CLAIM with the wait flag clear that finds its object not grantable is refused BUSY with nothing else
changed, whatever the writer's standing below BARRED, its quota and the pool; on a FREE object the same claim is
answered GRANTED. -/
def Obligations.ClaimNoWaitRefusedBusy : Prop :=
  ∀ (m : Master) (w : Word) (s : State), s.resetAsserted = false → claimMalformed w (s.port m).operandA = false →
    (s.mst m).standing ≠ .barred → (s.obj (objectField w)).state ≠ .offline →
    isMember (s.obj (objectField w)).holders m = false → s.isWaiting m (objectField w) = false →
    (claimMode w = .shared → (s.obj (objectField w)).objClass = .shareable) → claimWait w = false →
    (¬ (s.obj (objectField w)).Grantable (claimMode w) →
        exec (.claim m w) s = .next (s.acknowledged.answer m
          { outcome := .refused, reason := some .busy, echo := w.extractLsb' 0 6, position := 0, count := 0 })) ∧
      ((s.obj (objectField w)).state = .free →
        ∃ t, exec (.claim m w) s = .next t ∧ (t.port m).result.outcome = .granted)

/-- A waiting CLAIM that passes the checks of R27 and R32 on an object that is not grantable is queued (R33): one
entry is taken from the pool; it stands behind every entry of greater or equal priority with the fields of the
claim, its priority clamped to 7 when the writer is WARNED; the writer's waits held rise by one; the contention test
asks a yield of every holder exactly when the object is held with contention yield on, its tenure at the floor or
past it, and no yield pending; the result reads QUEUED with the entry's position; all else stands. -/
def Obligations.ClaimQueued : Prop :=
  ∀ (m : Master) (w : Word) (s : State), s.resetAsserted = false → claimMalformed w (s.port m).operandA = false →
    (s.mst m).standing ≠ .barred → (s.mst m).standing ≠ .restricted →
    (s.obj (objectField w)).state ≠ .offline → isMember (s.obj (objectField w)).holders m = false →
    s.isWaiting m (objectField w) = false →
    (claimMode w = .shared → (s.obj (objectField w)).objClass = .shareable) →
    ¬ (s.obj (objectField w)).Grantable (claimMode w) → claimWait w = true →
    s.waitsHeld m < (s.mst m).quota.toNat → s.poolFree ≠ 0 →
    ∃ (t : State) (e : Entry) (ahead behind : List Entry) (asks : Bool),
      exec (.claim m w) s = .next t ∧
      e = { master := m
            mode := claimMode w
            priority :=
              if (s.mst m).standing = .warned ∧ 7#4 < w.extractLsb' 12 4 then 7#4 else w.extractLsb' 12 4
            waitRemaining :=
              if (s.port m).operandA.extractLsb' 16 16 = 0 then none
              else some ((s.port m).operandA.extractLsb' 16 16)
            tag := (s.port m).operandA.extractLsb' 0 8
            due := false } ∧
      (s.obj (objectField w)).line = ahead ++ behind ∧
      (∀ x ∈ ahead, e.priority ≤ x.priority) ∧ (∀ x, behind.head? = some x → x.priority < e.priority) ∧
      (asks = true ↔ (s.obj (objectField w)).isHeld = true ∧ (s.obj (objectField w)).contentionYield = true ∧
        (s.obj (objectField w)).floor.toNat ≤ (s.obj (objectField w)).tenure.toNat ∧
        (s.obj (objectField w)).yieldPending = none) ∧
      t.obj (objectField w) =
        { s.obj (objectField w) with
          line := ahead ++ e :: behind
          yieldPending :=
            if asks then some { remaining := (s.obj (objectField w)).allowance, reason := .contention }
            else (s.obj (objectField w)).yieldPending
          owed :=
            if asks then { (s.obj (objectField w)).owed with yield := false } else (s.obj (objectField w)).owed } ∧
      t.poolFree + 1 = s.poolFree ∧ t.waitsHeld m = s.waitsHeld m + 1 ∧
      (∀ k, t.mst k =
        if asks ∧ isMember (s.obj (objectField w)).holders k = true then
          (s.mst k).post (.yieldAsked (objectField w) .contention (s.obj (objectField w)).allowance)
        else s.mst k) ∧
      State.OnlyObject (objectField w) s t ∧
      (s.acknowledged.answer m
        { outcome := .queued, reason := none, echo := w.extractLsb' 0 6
          position := BitVec.ofNat 4 (ahead.length + 1), count := 0 }).ObjectWork t

/-- A waiting CLAIM on an object that is not grantable is refused RESTRICTED, then QUOTA, then POOL_EMPTY, by the
first that holds, with nothing else changed (R32, R54). -/
def Obligations.ClaimWaitRefusals : Prop :=
  ∀ (m : Master) (w : Word) (s : State) (reason : Reason), s.resetAsserted = false →
    claimMalformed w (s.port m).operandA = false →
    (s.mst m).standing ≠ .barred → (s.obj (objectField w)).state ≠ .offline →
    isMember (s.obj (objectField w)).holders m = false → s.isWaiting m (objectField w) = false →
    (claimMode w = .shared → (s.obj (objectField w)).objClass = .shareable) →
    ¬ (s.obj (objectField w)).Grantable (claimMode w) → claimWait w = true →
    (if (s.mst m).standing = .restricted then some Reason.restricted
      else if (s.mst m).quota.toNat ≤ s.waitsHeld m then some Reason.quota
      else if s.poolFree = 0 then some Reason.poolEmpty else none) = some reason →
    exec (.claim m w) s = .next (s.acknowledged.answer m
      { outcome := .refused, reason := some reason, echo := w.extractLsb' 0 6, position := 0, count := 0 })

/-- The first six checks of a CLAIM give the reason in their order, and the refused claim changes nothing else
(R27). -/
def Obligations.ClaimRefusalOrder : Prop :=
  ∀ (m : Master) (w : Word) (s : State) (reason : Reason), s.resetAsserted = false →
    (if w &&& ~~~0x0000F33F#32 ≠ 0 ∨ (s.port m).operandA &&& ~~~0xFFFF00FF#32 ≠ 0 then some Reason.badOperand
      else if (s.mst m).standing = .barred then some Reason.barred
      else if (s.obj (objectField w)).state = .offline then some Reason.offline
      else if isMember (s.obj (objectField w)).holders m = true then some Reason.holderSelf
      else if ∃ e ∈ (s.obj (objectField w)).line, e.master = m then some Reason.alreadyWaiting
      else if w.getLsbD 8 = true ∧ (s.obj (objectField w)).objClass = .exclusiveOnly then some Reason.modeNotAllowed
      else none) = some reason →
    exec (.claim m w) s = .next (s.acknowledged.answer m
      { outcome := .refused, reason := some reason, echo := w.extractLsb' 0 6, position := 0, count := 0 })

/-! ### RELEASE and WITHDRAW -/

/-- A RELEASE that leaves another holder removes the writer and credits it one point; state, tenure, yield, line and
all other records stand (R35, R37). Of the writer's own record the score and its standing change, and STANDING is
posted if the standing does; all else of it stands. The writer's standing is taken to be its score's, as the invariant
gives it. -/
def Obligations.ReleaseLeavesOtherHolders : Prop :=
  ∀ (m : Master) (w : Word) (s : State), s.resetAsserted = false → bitsOutside w objectMask = false →
    isMember (s.obj (objectField w)).holders m = true →
    removeMember (s.obj (objectField w)).holders m ≠ 0 →
    (s.mst m).standing = standingOf (s.mst m).score → (s.mst m).standing ≠ .barred →
    ∃ t, exec (.release m w) s = .next t ∧
      t.objects = (s.modObj (objectField w) fun r => { r with holders := removeMember r.holders m }).objects ∧
      (t.mst m).score.toNat = (s.mst m).score.toNat - 1 ∧
      (t.mst m).standing = standingOf (t.mst m).score ∧
      t.mst m =
        (let credited := { s.mst m with score := (t.mst m).score, standing := standingOf (t.mst m).score }
          if standingOf (t.mst m).score = (s.mst m).standing then credited
          else credited.post (.standing (standingOf (t.mst m).score) (t.mst m).score)) ∧
      (∀ k, k ≠ m → t.mst k = s.mst k) ∧ t.poolFree = s.poolFree ∧
      t.ports = (s.answer m
        { outcome := .done, reason := none, echo := w.extractLsb' 0 6, position := 0, count := 0 }).ports ∧
      s.SameDevices t

/-- A RELEASE of the last holder hands the object over as a voluntary emptying (R36, R41 to R44): with an empty line
it becomes FREE; an EXCLUSIVE head is granted alone; a SHARED head is granted with the SHARED entries behind it;
each granted entry returns to the pool and raises the grant count. It never ends SETTLING, and no other object
changes. The whole record it leaves, with the yield asked when contention yield is on, the floor 0 and an entry left
(R45), and every record posted, FREED or GRANTED and YIELD_ASKED, is as `handedOver` writes it; the writer's credit and
its STANDING, if its standing changes, come after them (R37). -/
def Obligations.ReleaseOfLastHolderHandsOver : Prop :=
  ∀ (m : Master) (w : Word) (s : State), s.resetAsserted = false → bitsOutside w objectMask = false →
    isMember (s.obj (objectField w)).holders m = true →
    removeMember (s.obj (objectField w)).holders m = 0 →
    (s.mst m).standing = standingOf (s.mst m).score → (s.mst m).standing ≠ .barred →
    ∃ t, exec (.release m w) s = .next t ∧
      ((s.obj (objectField w)).line = [] →
        t.obj (objectField w) =
            { s.obj (objectField w) with
              state := .free, holders := 0, tenure := 0, yieldPending := none, watchers := 0, owed := Owed.none } ∧
          t.poolFree = s.poolFree) ∧
      (∀ e rest, (s.obj (objectField w)).line = e :: rest → e.mode = .exclusive →
        (t.obj (objectField w)).state = .heldExclusive ∧ (t.obj (objectField w)).holders = single e.master ∧
          (t.obj (objectField w)).line = rest ∧ t.poolFree = s.poolFree + 1 ∧
          (t.obj (objectField w)).grantCount = (s.obj (objectField w)).grantCount + 1 ∧
          (t.obj (objectField w)).watchers = (s.obj (objectField w)).watchers) ∧
      (∀ e rest, (s.obj (objectField w)).line = e :: rest → e.mode = .shared →
        (t.obj (objectField w)).state = .heldShared ∧
          ∃ batch left, e :: rest = batch ++ left ∧ (∀ x ∈ batch, x.mode = .shared) ∧
            (∀ x, left.head? = some x → x.mode = .exclusive) ∧ (t.obj (objectField w)).line = left ∧
            (∀ k, isMember (t.obj (objectField w)).holders k = true ↔ ∃ x ∈ batch, x.master = k) ∧
            t.poolFree = s.poolFree + batch.length ∧
            (t.obj (objectField w)).grantCount = (s.obj (objectField w)).grantCount + BitVec.ofNat 16 batch.length ∧
            (t.obj (objectField w)).watchers = (s.obj (objectField w)).watchers) ∧
      (t.obj (objectField w)).tenure = 0 ∧ (t.obj (objectField w)).state ≠ .settling ∧
      (t.mst m).score.toNat = (s.mst m).score.toNat - 1 ∧
      (∀ k, k ≠ m → (s.mst k).SameConduct (t.mst k)) ∧
      (∃ batch left, BatchOf (s.obj (objectField w)).line batch left ∧
        t.obj (objectField w) = (s.obj (objectField w)).handedOver batch left ∧
        t.poolFree = s.poolFree + batch.length ∧
        (∀ k, k ≠ m → t.mst k = (s.mst k).handedOver (objectField w) (s.obj (objectField w)) batch left k) ∧
        t.mst m =
          let credited :=
            { (s.mst m).handedOver (objectField w) (s.obj (objectField w)) batch left m with
              score := (t.mst m).score, standing := standingOf (t.mst m).score }
          if standingOf (t.mst m).score = (s.mst m).standing then credited
          else credited.post (.standing (standingOf (t.mst m).score) (t.mst m).score)) ∧
      State.OnlyObject (objectField w) s t ∧
      t.ports = (s.answer m
        { outcome := .done, reason := none, echo := w.extractLsb' 0 6, position := 0, count := 0 }).ports ∧
      s.SameDevices t

/-- The refusals of the client commands RELEASE, WITHDRAW, WATCH, UNWATCH and RESET_SELF but for those of WATCH by
state and standing: BAD_OPERAND for a port word with a bit outside its fields; NOT_HOLDER for a RELEASE by a master
that is not in the holder set, with no charge and any wait it has kept; NOT_WAITING for a WITHDRAW with no entry.
Each changes the writer's result and nothing else (R34, R38, R55, R107, R122). -/
def Obligations.ClientRefusals : Prop :=
  ∀ (m : Master) (w : Word) (s : State), s.resetAsserted = false →
    let refused := fun reason => Host.Outcome.next (s.acknowledged.answer m
      { outcome := .refused, reason := some reason, echo := w.extractLsb' 0 6, position := 0, count := 0 })
    (w &&& ~~~0x0000003F#32 ≠ 0 →
        exec (.release m w) s = refused .badOperand ∧ exec (.withdraw m w) s = refused .badOperand ∧
          exec (.watch m w) s = refused .badOperand ∧ exec (.unwatch m w) s = refused .badOperand) ∧
      (w &&& ~~~0x0000003F#32 = 0 →
        (isMember (s.obj (objectField w)).holders m = false → exec (.release m w) s = refused .notHolder) ∧
          (s.isWaiting m (objectField w) = false → exec (.withdraw m w) s = refused .notWaiting)) ∧
      (w ≠ 0 → exec (.resetSelf m w) s = .next (s.acknowledged.answer m
        { outcome := .refused, reason := some .badOperand, echo := 0, position := 0, count := 0 }))

/-- R56: a WITHDRAW that passes its checks removes the writer's one entry: the entries behind it move up, it returns
to the pool, the writer's waits held fall by one, the result reads DONE and nothing else changes. -/
def Obligations.WithdrawRemovesEntry : Prop :=
  ∀ (m : Master) (w : Word) (s : State), s.resetAsserted = false → bitsOutside w objectMask = false →
    s.isWaiting m (objectField w) = true → LineDistinct (s.obj (objectField w)).line →
    ∃ t, exec (.withdraw m w) s = .next t ∧
      t = (((s.acknowledged.modObj (objectField w) fun r =>
              { r with line := r.line.filter fun e => e.master ≠ m }).returnEntries 1).answer m
            { outcome := .done, reason := none, echo := w.extractLsb' 0 6, position := 0, count := 0 }) ∧
      t.waitsHeld m + 1 = s.waitsHeld m

/-! ### Watches, events and attention -/

/-- WATCH (R122): a BARRED writer is refused BARRED, an OFFLINE object OFFLINE; on a FREE object the writer is
posted FREED and joins nothing; on any other it joins the watch set and nothing is posted. -/
def Obligations.WatchOutcomes : Prop :=
  ∀ (m : Master) (w : Word) (s : State), s.resetAsserted = false → bitsOutside w objectMask = false →
    exec (.watch m w) s =
      if (s.mst m).standing = .barred then
        .next (s.acknowledged.answer m
          { outcome := .refused, reason := some .barred, echo := w.extractLsb' 0 6, position := 0, count := 0 })
      else if (s.obj (objectField w)).state = .offline then
        .next (s.acknowledged.answer m
          { outcome := .refused, reason := some .offline, echo := w.extractLsb' 0 6, position := 0, count := 0 })
      else if (s.obj (objectField w)).state = .free then
        .next ((s.acknowledged.post m (.freed (objectField w))).answer m
          { outcome := .done, reason := none, echo := w.extractLsb' 0 6, position := 0, count := 0 })
      else
        .next ((s.acknowledged.modObj (objectField w) fun r =>
            { r with watchers := addMember r.watchers m }).answer m
          { outcome := .done, reason := none, echo := w.extractLsb' 0 6, position := 0, count := 0 })

/-- R123: UNWATCH is refused BAD_OPERAND if the port word has a bit set outside bits 5-0, and for no other reason;
else the writer leaves the watch set if it is a member, the result reads DONE either way, and nothing else changes;
on an object whose row of Table 1-2 says OFFLINE or FREE it finds an empty set and changes no record. -/
def Obligations.UnwatchLeavesWatchSet : Prop :=
  ∀ (m : Master) (w : Word) (s : State), s.resetAsserted = false →
    (w &&& ~~~0x0000003F#32 ≠ 0 →
        exec (.unwatch m w) s = .next (s.acknowledged.answer m
          { outcome := .refused, reason := some .badOperand, echo := w.extractLsb' 0 6, position := 0, count := 0 })) ∧
      (w &&& ~~~0x0000003F#32 = 0 →
        ∃ t, exec (.unwatch m w) s = .next (t.answer m
            { outcome := .done, reason := none, echo := w.extractLsb' 0 6, position := 0, count := 0 }) ∧
          t = (s.acknowledged.modObj (objectField w) fun r => { r with watchers := removeMember r.watchers m }) ∧
          (isMember (s.obj (objectField w)).watchers m = false → t = s.acknowledged) ∧
          ((s.obj (objectField w)).Row →
            (s.obj (objectField w)).state = .offline ∨ (s.obj (objectField w)).state = .free → t = s.acknowledged))

/-- ACK_EVENT removes the head record of the writer's queue, leaving overflow and next sequence, and deasserts the
writer's line if the queue is then empty; a port word that is not 0 is refused BAD_OPERAND, and an empty queue
QUEUE_EMPTY (R117). -/
def Obligations.AckEventRemovesHead : Prop :=
  ∀ (m : Master) (s : State), s.resetAsserted = false →
    (∀ w, w ≠ 0 →
        exec (.ackEvent m w) s = .next (s.acknowledged.answer m
          { outcome := .refused, reason := some .badOperand, echo := 0, position := 0, count := 0 })) ∧
      (∀ e rest, (s.mst m).queue = e :: rest →
        ∃ t, exec (.ackEvent m 0) s = .next t ∧
          t = (s.acknowledged.modMst m fun r => { r with queue := rest }).answer m
            { outcome := .done, reason := none, echo := 0, position := 0, count := 0 } ∧
          (rest = [] → t.atn m = false)) ∧
      ((s.mst m).queue = [] →
        exec (.ackEvent m 0) s = .next (s.acknowledged.answer m
          { outcome := .refused, reason := some .queueEmpty, echo := 0, position := 0, count := 0 }))

/-- R118: CLEAR_OVERFLOW clears the writer's overflow flag, whether set or clear, and changes nothing else but its
result; a port word that is not 0 is refused BAD_OPERAND. -/
def Obligations.ClearOverflowClearsFlag : Prop :=
  ∀ (m : Master) (w : Word) (s : State), s.resetAsserted = false →
    exec (.clearOverflow m w) s =
      if w = 0 then
        .next ((s.acknowledged.modMst m fun r => { r with overflow := false }).answer m
          { outcome := .done, reason := none, echo := 0, position := 0, count := 0 })
      else
        .next (s.acknowledged.answer m
          { outcome := .refused, reason := some .badOperand, echo := 0, position := 0, count := 0 })

/-- R120: SET_ATTENTION sets the writer's attention enable to bit 0 of its port word and changes nothing else but
the result; a word with another bit set is refused BAD_OPERAND. The writer's line is then asserted just when the
enable is on and its queue holds a record, and every other line keeps its level (R119). -/
def Obligations.SetAttentionDrivesLine : Prop :=
  ∀ (m : Master) (w : Word) (s : State), s.resetAsserted = false →
    (w &&& ~~~0x00000001#32 ≠ 0 →
        exec (.setAttention m w) s = .next (s.acknowledged.answer m
          { outcome := .refused, reason := some .badOperand, echo := 0, position := 0, count := 0 })) ∧
      (w &&& ~~~0x00000001#32 = 0 →
        ∃ t, exec (.setAttention m w) s = .next t ∧
          t = ((s.acknowledged.modMst m fun r => { r with attention := w.getLsbD 0 }).answer m
                { outcome := .done, reason := none, echo := 0, position := 0, count := 0 }) ∧
          (t.atn m = true ↔ w.getLsbD 0 = true ∧ (s.mst m).queue ≠ []) ∧ ∀ k, k ≠ m → t.atn k = s.atn k)

/-- Posting (R113, R114): the record takes the next sequence, which rises by one and wraps; it is stored at the tail
if the queue holds fewer than 8 records, else discarded with the overflow flag set and the queue unchanged. -/
def Obligations.PostStoresOrDiscards : Prop :=
  ∀ (s : State) (m : Master) (n : Notice),
    (s.post m n).mst m =
        (if (s.mst m).queue.length < 8 then
          { s.mst m with
            nextSeq := (s.mst m).nextSeq + 1
            queue := (s.mst m).queue ++ [{ seq := (s.mst m).nextSeq, notice := n }] }
        else { s.mst m with nextSeq := (s.mst m).nextSeq + 1, overflow := true }) ∧
      (∀ k, k ≠ m → (s.post m n).mst k = s.mst k) ∧ s.post m n = { s with masters := (s.post m n).masters }

/-! ### Masters -/

/-- RESET_SELF clears the writer (R106, R107): it holds, waits on and watches nothing, its queue is empty and its
overflow flag clear; score, standing, quota, attributes and next sequence stand; the result's count is the number of
objects it held; no object it held enters SETTLING; every other master's conduct and every other record stands. An
object it held with others keeps them, its tenure and its yield; one it held alone is handed over as a voluntary
emptying, with FREED, or GRANTED and YIELD_ASKED, posted to the other masters in object order; a line it waited in
loses its entry alone (`Cleared`). -/
def Obligations.ResetSelfClearsMaster : Prop :=
  ∀ (m : Master) (s : State), s.resetAsserted = false → s.NoHolderWaits →
    ∃ t, exec (.resetSelf m 0) s = .next t ∧ t.HoldsNothing m ∧
      t.mst m = { s.mst m with queue := [], overflow := false } ∧
      (∀ o, isMember (s.obj o).holders m = true → (s.obj o).state ≠ .settling → (t.obj o).state ≠ .settling) ∧
      (∀ o, isMember (s.obj o).holders m = false → s.isWaiting m o = false → isMember (s.obj o).watchers m = false →
        t.obj o = s.obj o) ∧
      (∃ batch left, s.Cleared m t batch left) ∧
      t.poolFree + t.entriesInUse = s.poolFree + s.entriesInUse ∧
      (s.acknowledged.answer m
        { outcome := .done, reason := none, echo := 0, position := 0
          count := BitVec.ofNat 7 (allObjects.countP fun o => isMember (s.obj o).holders m) }).ObjectWork t

/-- CLEAR_MASTER clears the named master and posts CLEARED to it, which stands alone in its queue; the result's
count is the number of objects it held (R106, R108). No object it held enters SETTLING. An object it held with others
keeps them, its tenure and its yield; one it held alone is handed over as a voluntary emptying, with FREED, or GRANTED
and YIELD_ASKED, posted to the other masters in object order; a line it waited in loses its entry alone (`Cleared`);
the other masters are posted nothing else. -/
def Obligations.ClearMasterClearsNamed : Prop :=
  ∀ (m : Master) (w : Word) (s : State), s.resetAsserted = false → (s.mst m).supervisor = true →
    bitsOutside w clearMask = false → s.NoHolderWaits →
    ∃ t, exec (.clearMaster m w) s = .next t ∧ t.HoldsNothing (masterField w) ∧
      t.mst (masterField w) =
        { s.mst (masterField w) with
          queue := [{ seq := (s.mst (masterField w)).nextSeq, notice := .cleared m }]
          nextSeq := (s.mst (masterField w)).nextSeq + 1
          overflow := false } ∧
      (∀ o, isMember (s.obj o).holders (masterField w) = true → (s.obj o).state ≠ .settling →
        (t.obj o).state ≠ .settling) ∧
      (∀ o, isMember (s.obj o).holders (masterField w) = false → s.isWaiting (masterField w) o = false →
        isMember (s.obj o).watchers (masterField w) = false → t.obj o = s.obj o) ∧
      (∃ batch left, s.Cleared (masterField w) t batch left) ∧
      t.poolFree + t.entriesInUse = s.poolFree + s.entriesInUse ∧
      (s.acknowledged.answer m
        { outcome := .done, reason := none, echo := (w.extractLsb' 0 3).setWidth 6, position := 0
          count := BitVec.ofNat 7
            (allObjects.countP fun o => isMember (s.obj o).holders (masterField w)) }).ObjectWork t

/-- SET_QUOTA sets the named master's quota to a value up to 32, removing no entry and posting nothing; a greater
value is refused BAD_OPERAND (R103). -/
def Obligations.SetQuotaSetsQuota : Prop :=
  ∀ (m : Master) (w : Word) (s : State), s.resetAsserted = false → (s.mst m).supervisor = true →
    bitsOutside w quotaMask = false →
    exec (.setQuota m w) s =
      if (w.extractLsb' 8 6).toNat ≤ 32 then
        .next ((s.acknowledged.modMst (masterField w) fun r => { r with quota := w.extractLsb' 8 6 }).answer m
          { outcome := .done, reason := none, echo := (w.extractLsb' 0 3).setWidth 6, position := 0, count := 0 })
      else
        .next (s.acknowledged.answer m
          { outcome := .refused, reason := some .badOperand, echo := (w.extractLsb' 0 3).setWidth 6, position := 0
            count := 0 })

/-- R101: READMIT sets the named master's score to 0 and its standing to GOOD, and posts STANDING(GOOD, 0) to it
just when its standing was not GOOD; nothing else changes but the writer's result. -/
def Obligations.ReadmitRestoresGood : Prop :=
  ∀ (m : Master) (w : Word) (s : State), s.resetAsserted = false → (s.mst m).supervisor = true →
    bitsOutside w standingMask = false → w.extractLsb' 8 2 = 1#2 →
    exec (.readmit m w) s = .next
      ((s.acknowledged.modMst (masterField w) fun r =>
          let cleared := { r with score := 0, standing := .good }
          if r.standing = .good then cleared else cleared.post (.standing .good 0)).answer m
        { outcome := .done, reason := none, echo := (w.extractLsb' 0 3).setWidth 6, position := 0, count := 0 })

/-- BAR (R95 to R97, R102): the named master's score is raised to 192 if lower, its standing is BARRED, and it
holds, waits on and watches nothing; no other master's conduct and no object it had no part in changes. An object it
held with others keeps them; one it held alone enters SETTLING when settle is non-zero, line kept, and else is handed
over; a line it waited in loses its entry. It is posted STANDING(BARRED), FAULT_NOTICE(BARRED) if it is a supervisor,
REVOKED(BARRED) for each object held and WAIT_ENDED(BARRED) for each line, by ascending object; every other supervisor
is posted FAULT_NOTICE(BARRED), and every other master then the records of the handovers (`CutOff`). A master already
BARRED is left as it is. -/
def Obligations.BarCutsMasterOff : Prop :=
  ∀ (m : Master) (w : Word) (s : State), s.resetAsserted = false → (s.mst m).supervisor = true →
    bitsOutside w standingMask = false → w.extractLsb' 8 2 = 2#2 →
    ((s.mst (masterField w)).standing = .barred →
        exec (.bar m w) s = .next (s.acknowledged.answer m
          { outcome := .done, reason := none, echo := (w.extractLsb' 0 3).setWidth 6, position := 0, count := 0 })) ∧
      ((s.mst (masterField w)).standing ≠ .barred → s.NoHolderWaits →
        ∃ t, exec (.bar m w) s = .next t ∧ t.HoldsNothing (masterField w) ∧
          (t.mst (masterField w)).standing = .barred ∧
          (t.mst (masterField w)).score.toNat = max 192 (s.mst (masterField w)).score.toNat ∧
          (∀ k, k ≠ masterField w → (s.mst k).SameConduct (t.mst k)) ∧
          (∀ o, isMember (s.obj o).holders (masterField w) = false → s.isWaiting (masterField w) o = false →
            isMember (s.obj o).watchers (masterField w) = false → t.obj o = s.obj o) ∧
          (s.HoldsNothing (masterField w) → ∀ k,
            let named := if k = masterField w then
              (s.mst k).post (.standing .barred (t.mst k).score) else s.mst k
            (t.mst k).queue =
              (if (s.mst k).supervisor then named.post (.faultBarred (masterField w)) else named).queue) ∧
          (∃ batch left,
            s.CutOff (masterField w)
              (fun k => if k = masterField w then { s.mst k with score := (t.mst k).score, standing := .barred } else s.mst k)
              t batch left) ∧
          t.poolFree + t.entriesInUse = s.poolFree + s.entriesInUse ∧
          t.ports = (s.answer m
            { outcome := .done, reason := none, echo := (w.extractLsb' 0 3).setWidth 6, position := 0
              count := 0 }).ports ∧
          s.SameDevices t)

/-- SET_SUPERVISOR sets the named master's attribute and nothing else, but is refused LAST_SUPERVISOR when the
setting is no and the named master is the only one that carries it (R105). -/
def Obligations.SetSupervisorKeepsOne : Prop :=
  ∀ (m : Master) (w : Word) (s : State), s.resetAsserted = false → (s.mst m).supervisor = true →
    bitsOutside w supervisorMask = false →
    (w.getLsbD 8 = true ∨ (s.mst (masterField w)).supervisor = false ∨
          (∃ k, k ≠ masterField w ∧ (s.mst k).supervisor = true) →
        exec (.setSupervisor m w) s = .next
          ((s.acknowledged.modMst (masterField w) fun r => { r with supervisor := w.getLsbD 8 }).answer m
            { outcome := .done, reason := none, echo := (w.extractLsb' 0 3).setWidth 6, position := 0, count := 0 })) ∧
      (w.getLsbD 8 = false → (s.mst (masterField w)).supervisor = true →
        (∀ k, k ≠ masterField w → (s.mst k).supervisor = false) →
        exec (.setSupervisor m w) s = .next (s.acknowledged.answer m
          { outcome := .refused, reason := some .lastSupervisor, echo := (w.extractLsb' 0 3).setWidth 6, position := 0
            count := 0 }))

/-- Every supervisor command from a master without the attribute is refused NOT_PRIVILEGED, its first check, with
its object echo, and changes nothing else (R21, R104). -/
def Obligations.SupervisorCommandsNeedAttribute : Prop :=
  ∀ (i : Instr) (m : Master) (echo : BitVec 6) (s : State), supervisorWrite i = some (m, echo) →
    s.resetAsserted = false → (s.mst m).supervisor = false →
    exec i s = .next (s.acknowledged.answer m
      { outcome := .refused, reason := some .notPrivileged, echo := echo, position := 0, count := 0 })

/-- The further refusals of the supervisor commands, written by a supervisor: BAD_OPERAND for a malformed word, then
the refusal by state, each changing the writer's result and nothing else (R10, R13, R86, R100, R105, R108, R127,
R147, R152). -/
def Obligations.SupervisorRefusals : Prop :=
  ∀ (m : Master) (w : Word) (s : State), s.resetAsserted = false → (s.mst m).supervisor = true →
    let refused := fun reason echo => Host.Outcome.next (s.acknowledged.answer m
      { outcome := .refused, reason := some reason, echo := echo, position := 0, count := 0 })
    let echo := w.extractLsb' 0 6
    let masterEcho := (w.extractLsb' 0 3).setWidth 6
    let a := (s.port m).operandA
    let configBad := w &&& ~~~0x00FFFFFF#32 ≠ 0 ∨ a &&& ~~~0x00FFFFFF#32 ≠ 0 ∨ a.extractLsb' 16 8 = 0
    (configBad → exec (.configObject m w) s = refused .badOperand echo) ∧
    (¬ configBad → (s.obj (objectField w)).state ≠ .offline →
      exec (.configObject m w) s = refused .notOffline echo) ∧
    (w &&& ~~~0x0000003F#32 ≠ 0 →
      exec (.online m w) s = refused .badOperand echo ∧ exec (.offline m w) s = refused .badOperand echo ∧
        exec (.revoke m w) s = refused .badOperand echo) ∧
    (w &&& ~~~0x0000003F#32 = 0 →
      ((s.obj (objectField w)).state = .offline → exec (.offline m w) s = refused .offline echo) ∧
        ((s.obj (objectField w)).isHeld = false → exec (.revoke m w) s = refused .notHeld echo)) ∧
    (w &&& ~~~0x00003F07#32 ≠ 0 → exec (.setQuota m w) s = refused .badOperand masterEcho) ∧
    (w &&& ~~~0x00000307#32 ≠ 0 ∨ (w.extractLsb' 8 2 ≠ 1#2 ∧ w.extractLsb' 8 2 ≠ 2#2) →
      exec (.readmit m w) s = refused .badOperand masterEcho ∧ exec (.bar m w) s = refused .badOperand masterEcho) ∧
    (w &&& ~~~0x00000107#32 ≠ 0 → exec (.setSupervisor m w) s = refused .badOperand masterEcho) ∧
    (w &&& ~~~0x00000007#32 ≠ 0 → exec (.clearMaster m w) s = refused .badOperand masterEcho) ∧
    (w &&& ~~~0x003F070F#32 ≠ 0 ∨ a &&& ~~~0x000FFFFF#32 ≠ 0 ∨ (s.port m).operandB &&& ~~~0x000FFFFF#32 ≠ 0 →
      exec (.configGuard m w) s = refused .badOperand ((w.extractLsb' 0 4).setWidth 6)) ∧
    (w ≠ 0 → exec (.ackLog m w) s = refused .badOperand 0) ∧
    (w &&& ~~~0x0001FFFF#32 ≠ 0 → exec (.setTimeBase m w) s = refused .badOperand 0)

/-- A command of any port that is answered REFUSED changes its writer's result record and nothing else (R22). -/
def Obligations.RefusedChangesOnlyResult : Prop :=
  ∀ (i : Instr) (m : Master) (w : Word) (s t : State), portWrite i = some (m, w) → s.resetAsserted = false →
    exec i s = .next t → (t.port m).result.outcome = .refused →
    t = s.acknowledged.answer m (t.port m).result

/-! ### Objects -/

/-- CONFIG_OBJECT on an OFFLINE object writes the six configuration fields from the operand words and nothing else
of the record (R10, R11). -/
def Obligations.ConfigObjectWritesConfiguration : Prop :=
  ∀ (m : Master) (w : Word) (s : State), s.resetAsserted = false → (s.mst m).supervisor = true →
    w &&& ~~~0x00FFFFFF#32 = 0 → (s.port m).operandA &&& ~~~0x00FFFFFF#32 = 0 →
    (s.port m).operandA.extractLsb' 16 8 ≠ 0 → (s.obj (objectField w)).state = .offline →
    exec (.configObject m w) s = .next
      ((s.acknowledged.modObj (objectField w) fun r =>
          { r with
            objClass := if w.getLsbD 6 then .shareable else .exclusiveOnly
            contentionYield := w.getLsbD 7
            floor := w.extractLsb' 8 8
            settle := w.extractLsb' 16 8
            ceiling := (s.port m).operandA.extractLsb' 0 16
            allowance := (s.port m).operandA.extractLsb' 16 8 }).answer m
        { outcome := .done, reason := none, echo := w.extractLsb' 0 6, position := 0, count := 0 })

/-- ONLINE makes an OFFLINE object FREE and changes no other field; an object in service is refused ALREADY_ONLINE
(R12). -/
def Obligations.OnlineMakesFree : Prop :=
  ∀ (m : Master) (w : Word) (s : State), s.resetAsserted = false → (s.mst m).supervisor = true →
    bitsOutside w objectMask = false →
    exec (.online m w) s =
      if (s.obj (objectField w)).state = .offline then
        .next ((s.acknowledged.modObj (objectField w) fun r => { r with state := .free }).answer m
          { outcome := .done, reason := none, echo := w.extractLsb' 0 6, position := 0, count := 0 })
      else
        .next (s.acknowledged.answer m
          { outcome := .refused, reason := some .alreadyOnline, echo := w.extractLsb' 0 6, position := 0, count := 0 })

/-- OFFLINE on an object in service removes its holders with REVOKED(OFFLINE), its entries head first with
WAIT_ENDED(OFFLINE), and its watchers with WATCH_ENDED, in this order in every queue; clears its yield, settle and
tenure; keeps its configuration and counts; charges no one; and leaves all else (R13 to R16). -/
def Obligations.OfflineEndsEverything : Prop :=
  ∀ (m : Master) (w : Word) (s : State), s.resetAsserted = false → (s.mst m).supervisor = true →
    bitsOutside w objectMask = false → (s.obj (objectField w)).state ≠ .offline →
    ∃ t, exec (.offline m w) s = .next t ∧
      t.obj (objectField w) =
        { s.obj (objectField w) with
          state := .offline, holders := 0, line := [], tenure := 0, yieldPending := none, settleRemaining := none
          watchers := 0, owed := Owed.none } ∧
      State.OnlyObject (objectField w) s t ∧
      t.poolFree = s.poolFree + (s.obj (objectField w)).line.length ∧
      (∀ k,
        let held := if isMember (s.obj (objectField w)).holders k then
          (s.mst k).post (.revoked (objectField w) .offline) else s.mst k
        let waited := ((s.obj (objectField w)).line.filter fun e => e.master = k).foldl
          (fun r _ => r.post (.waitEnded (objectField w) .offline)) held
        t.mst k = if isMember (s.obj (objectField w)).watchers k then
          waited.post (.watchEnded (objectField w)) else waited) ∧
      (s.acknowledged.answer m
        { outcome := .done, reason := none, echo := w.extractLsb' 0 6, position := 0, count := 0 }).ObjectWork t

/-- REVOKE removes every holder of a held object with REVOKED(SUPERVISOR) and no charge, and hands the object over
by force (R87): with settle non-zero it enters SETTLING, line and watch set kept; with settle 0 and an empty line it
becomes FREE, and each watcher is posted FREED; with settle 0 and a line its head is granted, alone or with its SHARED
batch, the old holders gone. Whatever the settle, each old holder is posted REVOKED(SUPERVISOR), before any record of
the handover. -/
def Obligations.RevokeEmptiesByForce : Prop :=
  ∀ (m : Master) (w : Word) (s : State), s.resetAsserted = false → (s.mst m).supervisor = true →
    bitsOutside w objectMask = false → (s.obj (objectField w)).isHeld = true →
    ∃ t, exec (.revoke m w) s = .next t ∧
      ((s.obj (objectField w)).settle ≠ 0 →
        t.obj (objectField w) =
            { s.obj (objectField w) with
              state := .settling, holders := 0, tenure := 0, yieldPending := none
              settleRemaining := some (s.obj (objectField w)).settle, owed := Owed.none } ∧
          t.poolFree = s.poolFree ∧
          ∀ k, t.mst k =
            if isMember (s.obj (objectField w)).holders k then (s.mst k).post (.revoked (objectField w) .supervisor)
            else s.mst k) ∧
      ((s.obj (objectField w)).settle = 0 → (s.obj (objectField w)).line = [] →
        t.obj (objectField w) =
            { s.obj (objectField w) with
              state := .free, holders := 0, tenure := 0, yieldPending := none, watchers := 0, owed := Owed.none } ∧
          t.poolFree = s.poolFree ∧
          ∀ k, t.mst k =
            let revoked := if isMember (s.obj (objectField w)).holders k then
              (s.mst k).post (.revoked (objectField w) .supervisor) else s.mst k
            if isMember (s.obj (objectField w)).watchers k then revoked.post (.freed (objectField w)) else revoked) ∧
      ((s.obj (objectField w)).settle = 0 → ∀ e rest, (s.obj (objectField w)).line = e :: rest →
        (t.obj (objectField w)).tenure = 0 ∧ isMember (t.obj (objectField w)).holders e.master = true ∧
          (t.obj (objectField w)).state = (if e.mode = .exclusive then .heldExclusive else .heldShared) ∧
          ∃ batch left, BatchOf (e :: rest) batch left ∧
            (∀ k, isMember (t.obj (objectField w)).holders k = true ↔ ∃ x ∈ batch, x.master = k) ∧
            t.obj (objectField w) = (s.obj (objectField w)).handedOver batch left ∧
            t.poolFree = s.poolFree + batch.length ∧
            ∀ k, t.mst k =
              (if isMember (s.obj (objectField w)).holders k then
                  (s.mst k).post (.revoked (objectField w) .supervisor)
                else s.mst k).handedOver (objectField w) (s.obj (objectField w)) batch left k) ∧
      (t.obj (objectField w)).revokeCount = (s.obj (objectField w)).revokeCount ∧
      State.OnlyObject (objectField w) s t ∧
      (s.acknowledged.answer m
        { outcome := .done, reason := none, echo := w.extractLsb' 0 6, position := 0, count := 0 }).ObjectWork t

/-! ### Guard windows and the log -/

/-- R128: a CONFIG_GUARD that passes its checks writes all six fields of the named window from its three operand
words (R127), whatever the window held; the result reads DONE with the window number, and nothing else changes. -/
def Obligations.ConfigGuardWritesWindow : Prop :=
  ∀ (m : Master) (w : Word) (s : State), s.resetAsserted = false → (s.mst m).supervisor = true →
    w &&& ~~~0x003F070F#32 = 0 → (s.port m).operandA &&& ~~~0x000FFFFF#32 = 0 →
    (s.port m).operandB &&& ~~~0x000FFFFF#32 = 0 →
    exec (.configGuard m w) s = .next
      ((s.acknowledged.setWin (w.extractLsb' 0 4).toFin
          { enable := w.getLsbD 8
            base := (s.port m).operandA.extractLsb' 0 20
            limit := (s.port m).operandB.extractLsb' 0 20
            object := (w.extractLsb' 16 6).toFin
            kind := if w.getLsbD 9 then .accessGuard else .writeGuard
            action := if w.getLsbD 10 then .deny else .log }).answer m
        { outcome := .done, reason := none, echo := (w.extractLsb' 0 4).setWidth 6, position := 0, count := 0 })

/-- A window is active (R129) just when its enable is on, its object is not OFFLINE and its limit is at least its
base; this is decided from the records as they stand, so an ONLINE or OFFLINE of its object changes whether it is
active and no window record; after RESET no window is active. -/
def Obligations.WindowActiveRule : Prop :=
  (∀ (s : State) (g : GuardWindow), s.windowActive g = true ↔
      g.enable = true ∧ (s.obj g.object).state ≠ .offline ∧ g.base.toNat ≤ g.limit.toNat) ∧
    (∀ (m : Master) (w : Word) (s t : State), s.resetAsserted = false → (s.mst m).supervisor = true →
      bitsOutside w objectMask = false →
      ((s.obj (objectField w)).state = .offline → exec (.online m w) s = .next t →
          t.windows = s.windows ∧
            ∀ i, (s.win i).object = objectField w →
              t.windowActive (t.win i) = ((s.win i).enable && decide ((s.win i).base.toNat ≤ (s.win i).limit.toNat))) ∧
        ((s.obj (objectField w)).state ≠ .offline → exec (.offline m w) s = .next t →
          t.windows = s.windows ∧ ∀ i, (s.win i).object = objectField w → t.windowActive (t.win i) = false)) ∧
    ∀ i, State.reset.windowActive (State.reset.win i) = false

/-- R132, R133 (Table 7-2): what each check answers, by the object's state and the accessing master's relation to
it, on a record that its row of Table 1-2 allows, with its cause (R134); and which granules a window contains
(R131). That a READ passes in a WRITE-GUARD window whose object the reader does not hold, SETTLING or not, as R84, R132,
R139 and Table 7-2 have it, and not fails, as R176 and R109 word it, is the model's choice (DESIGN CHOICE; log 21). -/
def Obligations.CheckResultsTable : Prop :=
  (∀ (r : ObjectRec) (m : Master), r.Row → r.state ≠ .offline →
      checkAccess .writeGuard .read m r = none ∧
      (r.state = .heldExclusive → isMember r.holders m = true →
        checkAccess .writeGuard .write m r = none ∧ checkAccess .accessGuard .read m r = none ∧
          checkAccess .accessGuard .write m r = none) ∧
      (r.state = .heldShared → isMember r.holders m = true →
        checkAccess .writeGuard .write m r = some .sharedWrite ∧ checkAccess .accessGuard .read m r = none ∧
          checkAccess .accessGuard .write m r = some .sharedWrite) ∧
      (r.state = .free ∨ r.state = .settling ∨ isMember r.holders m = false →
        checkAccess .writeGuard .write m r = some .noHold ∧ checkAccess .accessGuard .read m r = some .noHold ∧
          checkAccess .accessGuard .write m r = some .noHold)) ∧
    ∀ (g : GuardWindow) (addr : WordAddr),
      g.contains (granuleOf addr) = true ↔ g.base.toNat ≤ addr.toNat / 1024 ∧ addr.toNat / 1024 ≤ g.limit.toNat

/-- An observed access that no active window containing it fails is not a violation: it is not acknowledged by the
part, DENY stays deasserted, and every record stands (R130, R131, R136). DENY is not latched: whatever command,
event or access follows, only an observed access leaves it asserted (R136, R171), only a window access leaves ACK
asserted, and only a window read leaves data driven (R155, section 10.8). Every window access, a read, a register write
or a command carried out or refused, is completed with ACK, but for one made while RESET is asserted (R155). That a
READ passes in a WRITE-GUARD window whose object the reader does not hold is the model's choice (log 21). -/
def Obligations.PassingObservationChangesNothing : Prop :=
  (∀ (m : Master) (addr : WordAddr) (dir : Direction) (s : State), s.resetAsserted = false →
      (∀ i, s.windowActive (s.win i) = true → (s.win i).contains (granuleOf addr) = true →
        checkAccess (s.win i).kind dir m (s.obj (s.win i).object) = none) →
      exec (.observation m addr dir) s = .next { s with ack := false, deny := false, dataOut := none }) ∧
    ∀ (c : Instr) (s : State), ∃ t, exec c s = .next t ∧
      ((∀ m addr dir, c ≠ .observation m addr dir) → t.deny = false) ∧ (windowAccess c = none → t.ack = false) ∧
      ((windowAccess c).isSome = true → s.resetAsserted = false → t.ack = true) ∧
      ((∀ r, c ≠ .readView0 r) → t.dataOut = none)

/-- A violation (R135, R136, R143 to R145): with window `i` the lowest-numbered active window that contains the
access and fails, with cause `c`, DENY is asserted just when some failing window has action DENY; the record is
stored at the tail of a log with room and else raises the newest record's suppressed count; the master is charged 6
points once, stopping at 255, and its standing recomputed; no other score changes. Unless the charge makes the
master BARRED no object record changes, and the only records posted are LOG_PENDING, to every supervisor, when the log
was empty, and after it STANDING to the master if its standing changed, to WARNED or RESTRICTED (R92). Where the charge
makes it BARRED the cascade runs within the observation, after LOG_PENDING and the charge (R95 to R97, R99): STANDING,
FAULT_NOTICE, the removal of the master from every hold, wait and watch, and the handovers, as `CutOff` writes it. -/
def Obligations.ViolationDenyRecordCharge : Prop :=
  ∀ (m : Master) (addr : WordAddr) (dir : Direction) (s : State) (i : WindowNum) (c : ViolationCause),
    let fails := fun j => s.windowActive (s.win j) && (s.win j).contains (granuleOf addr) &&
      (checkAccess (s.win j).kind dir m (s.obj (s.win j).object)).isSome
    let charged := min 255 ((s.mst m).score.toNat + 6)
    let standing := if (s.mst m).standing = .barred then .barred else standingOf (BitVec.ofNat 8 charged)
    s.resetAsserted = false → fails i = true → (∀ j, j < i → fails j = false) →
    checkAccess (s.win i).kind dir m (s.obj (s.win i).object) = some c →
    ∃ t, exec (.observation m addr dir) s = .next t ∧ t.ack = false ∧
      (t.deny = true ↔ ∃ j, fails j = true ∧ (s.win j).action = .deny) ∧
      (s.log.length < 16 →
        t.log = s.log ++
          [{ master := m, addr := addr, dir := dir, window := i, object := (s.win i).object, cause := c
             objState := (s.obj (s.win i).object).state, stamp := s.timeBase.uptime.extractLsb' 0 24
             suppressed := 0 }]) ∧
      (∀ older newest, 16 ≤ s.log.length → s.log = older ++ [newest] →
        t.log = older ++
          [{ newest with
             suppressed := if newest.suppressed = 255#8 then newest.suppressed else newest.suppressed + 1 }]) ∧
      (t.mst m).score.toNat = charged ∧ (t.mst m).standing = standing ∧
      (∀ k, k ≠ m → (s.mst k).SameConduct (t.mst k)) ∧
      (standing ≠ .barred ∨ (s.mst m).standing = .barred → t.objects = s.objects ∧ t.poolFree = s.poolFree) ∧
      (let pended := fun k =>
          if s.log = [] ∧ (s.mst k).supervisor = true then (s.mst k).post .logPending else s.mst k
        let before := fun k =>
          if k = m then { pended k with score := BitVec.ofNat 8 charged, standing := standing } else pended k
        (standing ≠ .barred ∨ (s.mst m).standing = .barred →
            ∀ k, t.mst k =
              if k = m ∧ (s.mst m).standing ≠ standing then
                (before k).post (.standing standing (BitVec.ofNat 8 charged))
              else before k) ∧
          (standing = .barred → (s.mst m).standing ≠ .barred → s.NoHolderWaits →
            t.HoldsNothing m ∧ ∃ batch left, s.CutOff m before t batch left)) ∧
      t.windows = s.windows ∧ t.timeBase = s.timeBase ∧ t.ports = s.ports ∧ t.pending = s.pending

/-- ACK_LOG removes the oldest record of the log and nothing else; an empty log is refused LOG_EMPTY (R147). -/
def Obligations.AckLogRemovesOldest : Prop :=
  ∀ (m : Master) (s : State), s.resetAsserted = false → (s.mst m).supervisor = true →
    (∀ l rest, s.log = l :: rest →
        exec (.ackLog m 0) s = .next (({ s.acknowledged with log := rest } : State).answer m
          { outcome := .done, reason := none, echo := 0, position := 0, count := 0 })) ∧
      (s.log = [] →
        exec (.ackLog m 0) s = .next (s.acknowledged.answer m
          { outcome := .refused, reason := some .logEmpty, echo := 0, position := 0, count := 0 }))

/-! ### The time base and the expiries -/

/-- SET_TIME_BASE writes the divider and the run state; the divider in force, the period count and the uptime keep
their values (R152). Every expiry of a TU end taken before it has been carried out (R153); with none outstanding
nothing else changes. -/
def Obligations.SetTimeBaseSetsBoth : Prop :=
  ∀ (m : Master) (w : Word) (s : State), s.resetAsserted = false → (s.mst m).supervisor = true →
    w &&& ~~~0x0001FFFF#32 = 0 →
    ∃ t, exec (.setTimeBase m w) s = .next t ∧
      t.timeBase =
        { s.timeBase with
          divider := w.extractLsb' 0 16, runState := if w.getLsbD 16 then .running else .stopped } ∧
      t.ports = (s.answer m { outcome := .done, reason := none, echo := 0, position := 0, count := 0 }).ports ∧
      t.outstanding = [] ∧
      (s.outstanding = [] →
        t = { s.acknowledged.answer m { outcome := .done, reason := none, echo := 0, position := 0, count := 0 } with
              timeBase := t.timeBase })

/-- At a period of RCLK while RUNNING, the period count rises by one if it is below the divider in force; if it equals
it the TU ends, the period count becomes 0, the divider in force takes the divider and the uptime rises by one; while
STOPPED no period is counted and no record changes (R150, R151). That the row TIME_UNIT_END does the same at that last
period, and nothing while STOPPED, is the model's choice (log 5). -/
def Obligations.RclkPeriodCounts : Prop :=
  ∀ s : State,
    (s.timeBase.runState = .running → s.timeBase.periodCount < s.timeBase.dividerInForce →
        ∃ t, exec .rclkPeriod s = .next t ∧
          t.timeBase = { s.timeBase with periodCount := s.timeBase.periodCount + 1 } ∧
          (s.outstanding = [] → t = { s.deasserted with timeBase := t.timeBase })) ∧
      (s.timeBase.runState = .running → s.timeBase.periodCount = s.timeBase.dividerInForce →
        ∃ t, exec .rclkPeriod s = .next t ∧ exec .timeUnitEnd s = .next t ∧
          t.timeBase =
            { s.timeBase with
              periodCount := 0, dividerInForce := s.timeBase.divider, uptime := s.timeBase.uptime + 1 }) ∧
      (s.timeBase.runState = .stopped →
        exec .rclkPeriod s = .next s.deasserted ∧ exec .timeUnitEnd s = .next s.deasserted)

/-- TIME_UNIT_END is what the periods of RCLK still owed to the present TU do (R150; that the row stands for all of
them is the model's choice, log 5). -/
def Obligations.TimeUnitEndIsPeriodsOwed : Prop :=
  ∀ s : State, s.timeBase.runState = .running → s.timeBase.periodCount ≤ s.timeBase.dividerInForce →
    rclkPeriods (s.timeBase.dividerInForce.toNat - s.timeBase.periodCount.toNat + 1) s = exec .timeUnitEnd s

/-- The end of a TU with none of the last one's expiries outstanding (R59, R68, R77, R83, R151): the uptime rises; a
settle remaining above 1 falls; where no expiry is reached a yield's remaining falls and the tenure rises, stopping
at 65535; in every line a wait remaining above 1 falls; OFFLINE and FREE objects and entries without limit are
unaffected; nothing is posted. Where a settle remaining or a yield's remaining is 1, or the tenure rises to a
non-zero ceiling or to the floor, the object's counts keep their values and its event, a settle expiry, a deadline,
or the reaching of the ceiling or of the floor, is outstanding; where a wait remaining is 1, that entry's expiry is
(that these are steps of their own is the model's reading, log 3). -/
def Obligations.TimeUnitEndAdvancesCounts : Prop :=
  ∀ s : State, s.timeBase.runState = .running → s.outstanding = [] →
    ∃ t, exec .timeUnitEnd s = .next t ∧ t.timeBase.uptime = s.timeBase.uptime + 1 ∧
      (∀ o,
        let r := s.obj o
        let line := r.line.map fun e =>
          match e.waitRemaining with
          | none => e
          | some n => if n = 1 then { e with due := true } else { e with waitRemaining := some (n - 1) }
        (t.obj o).line = line ∧
        (∀ e ∈ r.line, e.waitRemaining = some 1 →
          t.entryDue o e.master = true ∧ Expiry.entry o e.master ∈ t.outstanding) ∧
        ((r.state = .offline ∨ r.state = .free) → t.obj o = { r with line := line }) ∧
        (∀ n, r.state = .settling → r.settleRemaining = some n → n ≠ 1 →
          t.obj o = { r with line := line, settleRemaining := some (n - 1) }) ∧
        (r.state = .settling → r.settleRemaining = some 1 →
          t.obj o = { r with line := line, owed := { settle := true, yield := false, tenure := false } } ∧
            (t.obj o).settleRemaining = some 1 ∧ (t.obj o).settleFallsOut = true ∧
            Expiry.object o ∈ t.outstanding) ∧
        (∀ y, r.isHeld = true → r.yieldPending = some y → y.remaining = 1 →
          t.obj o = { r with line := line, owed := { settle := false, yield := true, tenure := true } } ∧
            (t.obj o).yieldPending = some y ∧ (t.obj o).tenure = r.tenure ∧ (t.obj o).settleFallsOut = false ∧
            (t.obj o).yieldFallsOut = true ∧ Expiry.object o ∈ t.outstanding) ∧
        (r.isHeld = true → (∀ y, r.yieldPending = some y → y.remaining ≠ 1) → r.tenure ≠ 65535#16 →
          (r.ceiling ≠ 0 ∧ r.tenure + 1 = r.ceiling) ∨ r.tenure + 1 = r.floor.setWidth 16 →
          t.obj o =
              { r with
                line := line, owed := { settle := false, yield := r.yieldPending.isSome, tenure := true } } ∧
            (t.obj o).settleFallsOut = false ∧ (t.obj o).yieldFallsOut = false ∧
            ((t.obj o).reachesCeiling = true ↔ r.ceiling ≠ 0 ∧ r.tenure + 1 = r.ceiling) ∧
            ((t.obj o).reachesFloor = true ↔ r.tenure + 1 = r.floor.setWidth 16) ∧
            Expiry.object o ∈ t.outstanding) ∧
        (r.isHeld = true → (∀ y, r.yieldPending = some y → y.remaining ≠ 1) →
          (r.tenure = 65535#16 ∨
            ((r.ceiling = 0 ∨ r.tenure + 1 ≠ r.ceiling) ∧ r.tenure + 1 ≠ r.floor.setWidth 16)) →
          t.obj o =
            { r with
              line := line
              tenure := if r.tenure = 65535#16 then r.tenure else r.tenure + 1
              yieldPending := r.yieldPending.map fun y => { y with remaining := y.remaining - 1 } })) ∧
      t.masters = s.masters ∧ t.poolFree = s.poolFree ∧ t.ports = s.ports ∧ t.windows = s.windows ∧ t.log = s.log ∧
      t.pending = s.pending

/-- A deadline (R78 to R80): every holder is charged 24 points, stopping at 255, and its standing recomputed; no
other score changes; the revoke count rises by one for each, stopping at 255; with settle non-zero the object enters
SETTLING with no holder, its line kept and its watch set less the masters made BARRED; with settle 0 and an empty line
it becomes FREE; with settle 0 and a line its head is granted, alone or with its SHARED batch (R80). Unless a charge
makes a holder BARRED no other object changes, and every record posted is that of the first stage, REVOKED(DEADLINE) to
each holder and after it FAULT_NOTICE(DEADLINE) to every supervisor and STANDING if its standing changed
(`deadlineRecords`), with the handover's FREED or GRANTED and YIELD_ASKED after all of them. Where charges make holders
BARRED, each of them is cut off in turn, ascending, after the first stage and before the handover, and then holds, waits
on and watches nothing (R79, R98; `CascadesInTurn`): `u` is the part after the first stage, `v` after the cascades. -/
def Obligations.DeadlineRevokesAndCharges : Prop :=
  ∀ (o : ObjNum) (s : State), (s.obj o).yieldFallsOut = true →
    ∃ t, exec (.deadline o) s = .next t ∧
      (∀ k, (t.mst k).score.toNat =
        if isMember (s.obj o).holders k then min 255 ((s.mst k).score.toNat + 24) else (s.mst k).score.toNat) ∧
      (∀ k, (t.mst k).standing =
        if isMember (s.obj o).holders k ∧ (s.mst k).standing ≠ .barred then standingOf (t.mst k).score
        else (s.mst k).standing) ∧
      (t.obj o).revokeCount.toNat = min 255 ((s.obj o).revokeCount.toNat + (members (s.obj o).holders).length) ∧
      ((s.obj o).settle ≠ 0 →
        (t.obj o).state = .settling ∧ (t.obj o).holders = 0 ∧ (t.obj o).settleRemaining = some (s.obj o).settle ∧
          (t.obj o).tenure = 0 ∧ (t.obj o).yieldPending = none) ∧
      ((s.obj o).settle = 0 → (s.obj o).line = [] →
        (t.obj o).state = .free ∧ (t.obj o).holders = 0 ∧ (t.obj o).tenure = 0 ∧ (t.obj o).yieldPending = none) ∧
      (∀ k, (t.mst k).quota = (s.mst k).quota ∧ (t.mst k).supervisor = (s.mst k).supervisor ∧
        (t.mst k).attention = (s.mst k).attention) ∧
      ((∀ k, isMember (s.obj o).holders k = true → (t.mst k).standing = (s.mst k).standing ∨
          (t.mst k).standing ≠ .barred) → State.OnlyObject o s t) ∧
      (∀ h, (s.obj o).holders = single h → (t.mst h).standing = (s.mst h).standing → (s.obj o).settle ≠ 0 → ∀ k,
        let removed := if k = h then (s.mst k).post (.revoked o .deadline) else s.mst k
        (t.mst k).queue = (if (s.mst k).supervisor then removed.post (.faultDeadline h o) else removed).queue) ∧
      (let barred := fun k =>
          isMember (s.obj o).holders k && (s.mst k).standing != .barred && (t.mst k).standing == .barred
        let told := fun k => (s.mst k).deadlineRecords o (members (s.obj o).holders) k
        ((s.obj o).settle ≠ 0 → (∀ k, barred k = false) → t.poolFree = s.poolFree ∧ ∀ k, t.mst k = told k) ∧
          ((s.obj o).settle ≠ 0 → (∀ e ∈ (s.obj o).line, isMember (s.obj o).holders e.master = false) →
            ∃ watching, (∀ k, isMember watching k = (isMember (s.obj o).watchers k && !barred k)) ∧
              t.obj o =
                { s.obj o with
                  state := .settling, holders := 0, tenure := 0, yieldPending := none
                  settleRemaining := some (s.obj o).settle, owed := Owed.none
                  revokeCount := (t.obj o).revokeCount, watchers := watching }) ∧
          (s.NoHolderWaits → (∀ p, LineDistinct (s.obj p).line) →
            (∀ k, barred k = true → t.HoldsNothing k) ∧
              ∃ u v : State, State.OnlyObject o s u ∧
                u.obj o =
                  { s.obj o with
                    holders := 0, tenure := 0, yieldPending := none, owed := Owed.none
                    revokeCount := (t.obj o).revokeCount } ∧
                u.poolFree = s.poolFree ∧ (∀ k, u.mst k = told k) ∧
                CascadesInTurn ((members (s.obj o).holders).filter barred) u v ∧ State.OnlyObject o v t ∧
                ((s.obj o).settle ≠ 0 →
                  t.obj o = { v.obj o with state := .settling, settleRemaining := some (s.obj o).settle } ∧
                    t.poolFree = v.poolFree ∧ ∀ k, t.mst k = v.mst k) ∧
                ((s.obj o).settle = 0 → ∃ batch left, BatchOf (v.obj o).line batch left ∧
                  t.obj o = (v.obj o).handedOver batch left ∧ t.poolFree = v.poolFree + batch.length ∧
                  ∀ k, t.mst k = (v.mst k).handedOver o (v.obj o) batch left k)) ∧
          ((s.obj o).settle = 0 → (∀ e ∈ (s.obj o).line, isMember (s.obj o).holders e.master = false) →
            ∃ batch left watching, BatchOf (s.obj o).line batch left ∧
              (∀ k, isMember watching k = (isMember (s.obj o).watchers k && !barred k)) ∧
              t.obj o =
                ObjectRec.handedOver { s.obj o with revokeCount := (t.obj o).revokeCount, watchers := watching }
                  batch left ∧
              ((∀ k, barred k = false) →
                t.poolFree = s.poolFree + batch.length ∧
                  ∀ k, t.mst k = (told k).handedOver o (s.obj o) batch left k))) ∧
      t.poolFree + t.entriesInUse = s.poolFree + s.entriesInUse ∧ t.ports = s.ports ∧ s.SameDevices t

/-- A settle expiry resumes handover at step 2 (R46, R85): with an empty line the object becomes FREE and each
watcher is posted FREED; with a line its head is granted, alone if EXCLUSIVE, the entries that leave return to the
pool, and a head that was alone in the line is posted GRANTED with its mode and tag; no one is charged and no other
object changes. Of an object in its row of Table 1-2, the whole record left, with the SHARED entries that join a SHARED
head, the grant count and the yield asked with a floor of 0, and every FREED, or GRANTED and YIELD_ASKED, posted are
those of `handedOver` (R43 to R45). -/
def Obligations.SettleExpiryResumesHandover : Prop :=
  ∀ (o : ObjNum) (s : State), (s.obj o).settleFallsOut = true →
    ∃ t, exec (.settleExpiry o) s = .next t ∧ (t.obj o).settleRemaining = none ∧ (t.obj o).tenure = 0 ∧
      ((s.obj o).line = [] →
        (t.obj o).state = .free ∧ (t.obj o).watchers = 0 ∧ t.poolFree = s.poolFree ∧
          ∀ k, t.mst k = if isMember (s.obj o).watchers k then (s.mst k).post (.freed o) else s.mst k) ∧
      (∀ e rest, (s.obj o).line = e :: rest →
        isMember (t.obj o).holders e.master = true ∧ (t.obj o).watchers = (s.obj o).watchers ∧
          (t.obj o).state = (if e.mode = .exclusive then .heldExclusive else .heldShared) ∧
          t.poolFree + (t.obj o).line.length = s.poolFree + (s.obj o).line.length ∧
          (e.mode = .exclusive → (t.obj o).line = rest ∧ (t.obj o).holders = single e.master) ∧
          (rest = [] → ∀ k, t.mst k =
            if k = e.master then (s.mst k).post (.granted o e.mode e.tag) else s.mst k)) ∧
      ((s.obj o).Row → (s.obj o).state = .settling →
        ∃ batch left, BatchOf (s.obj o).line batch left ∧
          t.obj o = ObjectRec.handedOver { s.obj o with settleRemaining := none } batch left ∧
          t.poolFree = s.poolFree + batch.length ∧
          ∀ k, t.mst k = (s.mst k).handedOver o (s.obj o) batch left k) ∧
      State.OnlyObject o s t ∧ s.deasserted.ObjectWork t

/-- A wait-limit expiry removes the one entry, returns it to the pool and posts WAIT_ENDED(EXPIRED) to its master,
with no charge and nothing else changed (R60). -/
def Obligations.WaitLimitExpiryEndsWait : Prop :=
  ∀ (o : ObjNum) (m : Master) (s : State), s.entryDue o m = true → LineDistinct (s.obj o).line →
    exec (.waitLimitExpiry o m) s = .next
      (((s.deasserted.modObj o fun r =>
          { r with line := r.line.filter fun e => e.master ≠ m }).returnEntries 1).post m
        (.waitEnded o .expired))

/-- When the tenure rises to a non-zero ceiling with no yield pending, a yield with reason CEILING and the allowance
is asked of every holder, line and contention yield playing no part; with a yield pending, that yield keeps its
reason, its remaining count falls by one if this TU end owes that fall and else keeps its value (R68, step 1), and
nothing is posted (R71, R72, R73). A floor that the tenure reaches at the same rise asks nothing: the event is the same
(R72). -/
def Obligations.CeilingAsksYield : Prop :=
  ∀ (o : ObjNum) (s : State), (s.obj o).reachesCeiling = true → (s.obj o).yieldFallsOut = false →
    ∃ t, exec (.tenureReachesCeiling o) s = .next t ∧ (t.obj o).tenure = (s.obj o).ceiling ∧
      ((s.obj o).yieldPending = none →
        (t.obj o).yieldPending = some { remaining := (s.obj o).allowance, reason := .ceiling } ∧
          ∀ k, t.mst k = if isMember (s.obj o).holders k then
            (s.mst k).post (.yieldAsked o .ceiling (s.obj o).allowance) else s.mst k) ∧
      (∀ y, (s.obj o).yieldPending = some y →
        t.masters = s.masters ∧
          (t.obj o).yieldPending =
            some { y with remaining := if (s.obj o).owed.yield then y.remaining - 1 else y.remaining }) ∧
      ((s.obj o).reachesFloor = true → exec (.tenureReachesFloor o) s = exec (.tenureReachesCeiling o) s) ∧
      ((s.obj o).owed.settle = false →
        t.obj o =
          { s.obj o with
            tenure := (s.obj o).ceiling, yieldPending := (t.obj o).yieldPending, owed := Owed.none }) ∧
      (t.obj o).holders = (s.obj o).holders ∧ (t.obj o).line = (s.obj o).line ∧ (t.obj o).state = (s.obj o).state ∧
      t.poolFree = s.poolFree ∧ State.OnlyObject o s t ∧ s.deasserted.ObjectWork t

/-- When the tenure of a held object rises to the floor, and not to the ceiling, with no yield pending, the
contention test asks a yield with reason CONTENTION of every holder just when contention yield is on and someone
waits (R69, R70). With a yield pending the test fails: that yield keeps its reason, its remaining count falls by one if
this TU end owes that fall and else keeps its value (R68, step 1), and nothing is posted (R70, R72). -/
def Obligations.FloorMakesContentionTest : Prop :=
  ∀ (o : ObjNum) (s : State), (s.obj o).reachesFloor = true → (s.obj o).reachesCeiling = false →
    (s.obj o).isHeld = true → (s.obj o).yieldFallsOut = false →
    ∃ t, exec (.tenureReachesFloor o) s = .next t ∧ (t.obj o).tenure = (s.obj o).floor.setWidth 16 ∧
      ((s.obj o).yieldPending = none → (s.obj o).contentionYield = true → (s.obj o).line ≠ [] →
        (t.obj o).yieldPending = some { remaining := (s.obj o).allowance, reason := .contention } ∧
          ∀ k, t.mst k = if isMember (s.obj o).holders k then
            (s.mst k).post (.yieldAsked o .contention (s.obj o).allowance) else s.mst k) ∧
      ((s.obj o).yieldPending = none → (s.obj o).contentionYield = false ∨ (s.obj o).line = [] →
        (t.obj o).yieldPending = none ∧ t.masters = s.masters) ∧
      (∀ y, (s.obj o).yieldPending = some y →
        t.masters = s.masters ∧
          (t.obj o).yieldPending =
            some { y with remaining := if (s.obj o).owed.yield then y.remaining - 1 else y.remaining }) ∧
      ((s.obj o).owed.settle = false →
        t.obj o =
          { s.obj o with
            tenure := (s.obj o).floor.setWidth 16, yieldPending := (t.obj o).yieldPending, owed := Owed.none }) ∧
      (t.obj o).holders = (s.obj o).holders ∧ (t.obj o).line = (s.obj o).line ∧ (t.obj o).state = (s.obj o).state ∧
      t.poolFree = s.poolFree ∧ State.OnlyObject o s t ∧ s.deasserted.ObjectWork t

/-- An expiry that its record does not owe does not occur: the event changes no record (R61, R81, R82; log 6), whatever
other event the object owes. One clause for each row, by the condition of that row alone: DEADLINE where no yield
remaining falls from 1, SETTLE_EXPIRY where no settle remaining does, TENURE_REACHES_CEILING and TENURE_REACHES_FLOOR
where the tenure does not rise to that mark or the event is a deadline (R68), WAIT_LIMIT_EXPIRY where the entry's wait
does not fall from 1. No such condition holds of an object that owes nothing, of a count that is not at 1, or of a
tenure that is not one short of the mark. -/
def Obligations.ExpiryNotOwedDoesNotOccur : Prop :=
  ∀ (o : ObjNum) (m : Master) (s : State),
    ((s.obj o).yieldFallsOut = false → exec (.deadline o) s = .next s.deasserted) ∧
    ((s.obj o).settleFallsOut = false → exec (.settleExpiry o) s = .next s.deasserted) ∧
    ((s.obj o).reachesCeiling = false ∨ (s.obj o).yieldFallsOut = true →
      exec (.tenureReachesCeiling o) s = .next s.deasserted) ∧
    ((s.obj o).reachesFloor = false ∨ (s.obj o).yieldFallsOut = true →
      exec (.tenureReachesFloor o) s = .next s.deasserted) ∧
    (s.entryDue o m = false → exec (.waitLimitExpiry o m) s = .next s.deasserted) ∧
    ((s.obj o).owed.yield = false ∨ (∀ y, (s.obj o).yieldPending = some y → y.remaining ≠ 1) →
      (s.obj o).yieldFallsOut = false) ∧
    ((s.obj o).owed.settle = false ∨ (s.obj o).settleRemaining ≠ some 1 → (s.obj o).settleFallsOut = false) ∧
    ((s.obj o).owed.tenure = false ∨ (s.obj o).ceiling = 0 ∨ (s.obj o).tenure + 1 ≠ (s.obj o).ceiling →
      (s.obj o).reachesCeiling = false) ∧
    ((s.obj o).owed.tenure = false ∨ (s.obj o).tenure + 1 ≠ (s.obj o).floor.setWidth 16 →
      (s.obj o).reachesFloor = false) ∧
    ((∀ e ∈ (s.obj o).line, e.master = m → e.due = false) → s.entryDue o m = false)

/-- Expiries still outstanding when the next period of RCLK is counted, when a TIME_UNIT_END comes or when a
SET_TIME_BASE is carried out are all taken first, each one by its own event, in whatever order the free choice gives
them, and the time base stands meanwhile: the command then does what it does at the part they leave, which has none
outstanding (R115, R151, R153; that they are taken then at the latest is the model's choice, log 4). The event of an
outstanding expiry is what its own row does: SETTLE_EXPIRY, DEADLINE, TENURE_REACHES_CEILING, TENURE_REACHES_FLOOR
or WAIT_LIMIT_EXPIRY. -/
def Obligations.OutstandingExpiriesAllTaken : Prop :=
  (∀ s : State, (takeOutstanding s).outstanding = [] ∧ (takeOutstanding s).timeBase = s.timeBase) ∧
    (∀ s : State, s.timeBase.runState = .running →
      ∃ u, AllTaken s.deasserted u ∧ u.outstanding = [] ∧ u.timeBase = s.timeBase ∧
        exec .rclkPeriod s = exec .rclkPeriod u ∧ exec .timeUnitEnd s = exec .timeUnitEnd u) ∧
    (∀ (m : Master) (w : Word) (s : State), s.resetAsserted = false → (s.mst m).supervisor = true →
      w &&& ~~~0x0001FFFF#32 = 0 →
      ∃ u, AllTaken s.acknowledged u ∧ u.outstanding = [] ∧ u.timeBase = s.timeBase ∧
        exec (.setTimeBase m w) s = exec (.setTimeBase m w) u) ∧
    ∀ (o : ObjNum) (s : State),
      let taken := Host.Outcome.next (takeExpiry (.object o) s.deasserted)
      ((s.obj o).settleFallsOut = true → exec (.settleExpiry o) s = taken) ∧
        ((s.obj o).settleFallsOut = false → (s.obj o).yieldFallsOut = true → exec (.deadline o) s = taken) ∧
        ((s.obj o).settleFallsOut = false → (s.obj o).yieldFallsOut = false →
          ((s.obj o).reachesCeiling = true → exec (.tenureReachesCeiling o) s = taken) ∧
            ((s.obj o).reachesFloor = true → exec (.tenureReachesFloor o) s = taken)) ∧
        ∀ m, s.entryDue o m = true →
          exec (.waitLimitExpiry o m) s = .next (takeExpiry (.entry o m) s.deasserted)

/-! ### The bus port -/

/-- A whole-word write to OPERAND_A, OPERAND_B or VIEW_SELECT stores into the writer's copy (of VIEW_SELECT its
three fields), and takes no snapshot; a write to any other register or unassigned offset is acknowledged and
ignored; a write without all four byte enables is ignored at every offset (R156, R157, R159, R162). -/
def Obligations.RegisterWriteStores : Prop :=
  ∀ (m : Master) (data : Word) (s : State), s.resetAsserted = false →
    exec (.registerWrite m (wordAt 0x04) 15#4 data) s =
        .next (s.acknowledged.modPort m fun p => { p with operandA := data }) ∧
      exec (.registerWrite m (wordAt 0x08) 15#4 data) s =
        .next (s.acknowledged.modPort m fun p => { p with operandB := data }) ∧
      (∃ v : ViewSelect, exec (.registerWrite m (wordAt 0x1C) 15#4 data) s =
          .next (s.acknowledged.modPort m fun p => { p with viewSelect := v }) ∧
        viewSelectWord v = data &&& 0x00033F0F#32) ∧
      (∀ offset : WindowOffset, offset ≠ wordAt 0x04 → offset ≠ wordAt 0x08 → offset ≠ wordAt 0x1C →
        isCommandOffset offset = false →
        exec (.registerWrite m offset 15#4 data) s = .next s.acknowledged) ∧
      ∀ (offset : WindowOffset) (byteEnables : BitVec 4), byteEnables ≠ 15#4 →
        exec (.registerWrite m offset byteEnables data) s = .next s.acknowledged

/-- A whole-word write at the offset of a command port is that port's command (R160, Table 10-1; that the row
REGISTER_WRITE there is the command's own row, word for word, is the model's reading, DEDUCED, log 9). The two clauses at
D4h are the model's choice too: READMIT and BAR are two rows of one port, SET_STANDING, and both have the same effect on
the same word, whose action field decides it, so the write is either row for every word (DEDUCED, log 8). -/
def Obligations.WholeWordWriteIsCommand : Prop :=
  ∀ (m : Master) (w : Word) (s : State),
    exec (.registerWrite m (wordAt 0x80) 15#4 w) s = exec (.claim m w) s ∧
    exec (.registerWrite m (wordAt 0x84) 15#4 w) s = exec (.release m w) s ∧
    exec (.registerWrite m (wordAt 0x88) 15#4 w) s = exec (.withdraw m w) s ∧
    exec (.registerWrite m (wordAt 0x8C) 15#4 w) s = exec (.watch m w) s ∧
    exec (.registerWrite m (wordAt 0x90) 15#4 w) s = exec (.unwatch m w) s ∧
    exec (.registerWrite m (wordAt 0x94) 15#4 w) s = exec (.ackEvent m w) s ∧
    exec (.registerWrite m (wordAt 0x98) 15#4 w) s = exec (.clearOverflow m w) s ∧
    exec (.registerWrite m (wordAt 0x9C) 15#4 w) s = exec (.setAttention m w) s ∧
    exec (.registerWrite m (wordAt 0xA0) 15#4 w) s = exec (.resetSelf m w) s ∧
    exec (.registerWrite m (wordAt 0xC0) 15#4 w) s = exec (.configObject m w) s ∧
    exec (.registerWrite m (wordAt 0xC4) 15#4 w) s = exec (.online m w) s ∧
    exec (.registerWrite m (wordAt 0xC8) 15#4 w) s = exec (.offline m w) s ∧
    exec (.registerWrite m (wordAt 0xCC) 15#4 w) s = exec (.revoke m w) s ∧
    exec (.registerWrite m (wordAt 0xD0) 15#4 w) s = exec (.setQuota m w) s ∧
    exec (.registerWrite m (wordAt 0xD4) 15#4 w) s = exec (.readmit m w) s ∧
    exec (.registerWrite m (wordAt 0xD4) 15#4 w) s = exec (.bar m w) s ∧
    exec (.registerWrite m (wordAt 0xD8) 15#4 w) s = exec (.setSupervisor m w) s ∧
    exec (.registerWrite m (wordAt 0xDC) 15#4 w) s = exec (.clearMaster m w) s ∧
    exec (.registerWrite m (wordAt 0xE0) 15#4 w) s = exec (.configGuard m w) s ∧
    exec (.registerWrite m (wordAt 0xE4) 15#4 w) s = exec (.ackLog m w) s ∧
    exec (.registerWrite m (wordAt 0xE8) 15#4 w) s = exec (.setTimeBase m w) s

/-- A read of VIEW_0 copies the record that VIEW_SELECT selects now into the reader's snapshot, drives its first
word, and changes no other record; VIEW_1 to VIEW_3 then read the other words of that snapshot (R163). The record
selected is an object, an entry of an object's line, a master below 8 or a window below 16, and for a greater number
none (R162, R164 to R167). A read at any other offset of the window is acknowledged too, drives the word of that offset
and changes no record (R155, R157; that it is this constructor with another offset is the model's form, log 17). -/
def Obligations.ReadView0TakesSnapshot : Prop :=
  ∀ (m : Master) (s : State), s.resetAsserted = false →
    (∃ (t : State) (v : Snapshot), exec (.readView0 { master := m, offset := wordAt 0x20 }) s = .next t ∧
      v = selectedView s (s.port m).viewSelect ∧
      t = { s.modPort m fun p => { p with snapshot := v } with
            ack := true, deny := false, dataOut := some v.word0 } ∧
      v.word0 = s.readWindow m (wordAt 0x20) ∧ t.readWindow m (wordAt 0x24) = v.word1 ∧
      t.readWindow m (wordAt 0x28) = v.word2 ∧ t.readWindow m (wordAt 0x2C) = v.word3 ∧
      (let index := (s.port m).viewSelect.index
        let position := (s.port m).viewSelect.position
        ((s.port m).viewSelect.kind = .object → v = objectView (s.obj index.toFin)) ∧
        ((s.port m).viewSelect.kind = .lineEntry → v = lineEntryView index position (s.obj index.toFin)) ∧
        ((s.port m).viewSelect.kind = .master →
          (∀ k : Master, k.val = index.toNat → v = masterView s k) ∧
            (8 ≤ index.toNat → v = { word0 := 0x40000000#32, word1 := 0, word2 := 0, word3 := 0 })) ∧
        ((s.port m).viewSelect.kind = .guardWindow →
          (∀ i : WindowNum, i.val = index.toNat → v = guardView s i) ∧
            (16 ≤ index.toNat → v = { word0 := 0x60000000#32, word1 := 0, word2 := 0, word3 := 0 })))) ∧
      ∀ offset : WindowOffset, offset ≠ wordAt 0x20 →
        exec (.readView0 { master := m, offset := offset }) s =
          .next { s with ack := true, deny := false, dataOut := some (s.readWindow m offset) }

/-- The codes and the bit positions of every register word that a window read returns (R161 to R170): the code
tables of Tables 10-4 to 10-6; the object, line-entry, master and guard-window views (Table 10-5); RESULT,
SELF_STATUS, VIEW_SELECT, TIME_BASE_STATUS, POOL_FREE and the whole words ID, OPERAND_A, OPERAND_B and UPTIME (Table
10-4); the event head and the log head (Table 10-6); an empty queue and an empty log read 0, and so do the bits
outside the fields, and every offset from 48h on, at which the window has its command ports and its unassigned offsets
alone (R157). That VIEW_1 bits 31-16 of a line entry without wait limit read 0 is the model's choice (log 20). -/
def Obligations.RegisterWordsFields : Prop :=
  ([ObjState.offline, .free, .heldExclusive, .heldShared, .settling].map stateCode = [0, 1, 2, 3, 4] ∧
    [Standing.good, .warned, .restricted, .barred].map standingCode = [0, 1, 2, 3] ∧
    [CmdOutcome.none, .done, .granted, .queued, .refused].map outcomeCode = [0, 1, 2, 3, 4] ∧
    [none, some Reason.badOperand, some .notPrivileged, some .barred, some .offline, some .holderSelf,
        some .alreadyWaiting, some .modeNotAllowed, some .busy, some .restricted, some .quota, some .poolEmpty,
        some .notHolder, some .notWaiting, some .notOffline, some .notHeld, some .alreadyOnline,
        some .lastSupervisor, some .queueEmpty, some .logEmpty].map reasonField =
      [0, 1, 2, 3, 4, 5, 6, 7, 8, 9, 10, 11, 12, 13, 14, 15, 16, 17, 18, 19] ∧
    [ViewKind.object, .lineEntry, .master, .guardWindow].map viewKindCode = [0, 1, 2, 3] ∧
    (∀ score : BitVec 8, standingCode (standingOf score) = (score.extractLsb' 6 2).setWidth 3) ∧
    ∀ (o : ObjNum) (mode : Mode) (tag : BitVec 8) (reason : YieldReason) (value : BitVec 8) (k : Master)
        (revoked : RevokeCause) (ended : WaitEndCause) (standing : Standing),
      [Notice.granted o mode tag, .yieldAsked o reason value, .revoked o revoked, .waitEnded o ended, .freed o,
          .watchEnded o, .standing standing value, .cleared k, .faultDeadline k o, .faultBarred k, .logPending].map
          (fun n => (n.kindCode, n.detailCode, n.object?, n.otherMaster, n.tag, n.value)) =
        [(1, if mode = .shared then 1 else 0, some o, 0, tag, 0),
          (2, if reason = .ceiling then 1 else 0, some o, 0, 0, value),
          (3, match revoked with | .deadline => 0 | .supervisor => 1 | .barred => 2 | .offline => 3,
            some o, 0, 0, 0),
          (4, match ended with | .expired => 0 | .offline => 1 | .barred => 2, some o, 0, 0, 0),
          (5, 0, some o, 0, 0, 0), (6, 0, some o, 0, 0, 0), (7, standingCode standing, none, 0, 0, value),
          (8, 0, none, k.val, 0, 0), (9, 0, some o, k.val, 0, 0), (9, 1, none, k.val, 0, 0),
          (10, 0, none, 0, 0, 0)]) ∧
    (∀ r : ObjectRec,
      (objectView r).word0.extractLsb' 31 1 = 1#1 ∧ (objectView r).word0.extractLsb' 29 2 = 0#2 ∧
      (objectView r).word0.extractLsb' 26 3 = stateCode r.state ∧
      (objectView r).word0.getLsbD 25 = (r.objClass == .shareable) ∧
      (objectView r).word0.getLsbD 24 = r.contentionYield ∧
      (objectView r).word0.extractLsb' 20 4 = BitVec.ofNat 4 r.line.length ∧
      (objectView r).word0.extractLsb' 12 8 = r.holders ∧ (objectView r).word0.extractLsb' 4 8 = r.watchers ∧
      (objectView r).word0.getLsbD 3 = r.yieldPending.isSome ∧
      ((objectView r).word0.getLsbD 2 = true ↔ ∃ y, r.yieldPending = some y ∧ y.reason = .ceiling) ∧
      (objectView r).word0.extractLsb' 0 2 = 0#2 ∧
      (objectView r).word1.extractLsb' 16 16 = r.tenure ∧
      (∀ y, r.yieldPending = some y → (objectView r).word1.extractLsb' 8 8 = y.remaining) ∧
      (r.yieldPending = none → (objectView r).word1.extractLsb' 8 8 = 0#8) ∧
      (∀ n, r.settleRemaining = some n → (objectView r).word1.extractLsb' 0 8 = n) ∧
      (r.settleRemaining = none → (objectView r).word1.extractLsb' 0 8 = 0#8) ∧
      (objectView r).word2.extractLsb' 16 16 = r.ceiling ∧ (objectView r).word2.extractLsb' 8 8 = r.floor ∧
      (objectView r).word2.extractLsb' 0 8 = r.allowance ∧ (objectView r).word3.extractLsb' 16 16 = r.grantCount ∧
      (objectView r).word3.extractLsb' 8 8 = r.revokeCount ∧ (objectView r).word3.extractLsb' 0 8 = r.settle) ∧
    (∀ (index : BitVec 6) (position : BitVec 4) (r : ObjectRec),
      let v := lineEntryView index position r
      v.word0.extractLsb' 29 2 = 1#2 ∧ v.word0.extractLsb' 23 6 = index ∧ v.word0.extractLsb' 19 4 = position ∧
      v.word2 = BitVec.ofNat 32 (r.line.length % 16) ∧ v.word3 = 0 ∧
      (∀ e, position ≠ 0 → r.line[position.toNat - 1]? = some e →
        v.word0.getLsbD 31 = true ∧ v.word0.extractLsb' 16 3 = BitVec.ofNat 3 e.master.val ∧
        (v.word0.getLsbD 15 = true ↔ e.mode = .shared) ∧ v.word0.extractLsb' 11 4 = e.priority ∧
        v.word0.getLsbD 10 = e.waitRemaining.isSome ∧ v.word0.extractLsb' 0 10 = 0#10 ∧
        (∀ n, e.waitRemaining = some n → v.word1.extractLsb' 16 16 = n) ∧
        (e.waitRemaining = none → v.word1.extractLsb' 16 16 = 0#16) ∧ v.word1.extractLsb' 8 8 = 0#8 ∧
        v.word1.extractLsb' 0 8 = e.tag) ∧
      (position = 0 ∨ r.line.length < position.toNat →
        v.word0.getLsbD 31 = false ∧ v.word0.extractLsb' 0 19 = 0#19 ∧ v.word1 = 0)) ∧
    (∀ (s : State) (k : Master),
      let v := masterView s k
      v.word0.extractLsb' 29 3 = 6#3 ∧ v.word0.extractLsb' 26 3 = BitVec.ofNat 3 k.val ∧
      v.word0.extractLsb' 24 2 = 0#2 ∧ v.word0.extractLsb' 16 8 = (s.mst k).score ∧
      v.word0.extractLsb' 10 6 = (s.mst k).quota ∧ v.word0.extractLsb' 4 6 = BitVec.ofNat 6 (s.waitsHeld k) ∧
      v.word0.getLsbD 3 = (s.mst k).supervisor ∧ v.word0.getLsbD 2 = (s.mst k).attention ∧
      v.word0.getLsbD 1 = (s.mst k).overflow ∧ v.word0.getLsbD 0 = false ∧
      v.word1.extractLsb' 24 8 = (s.mst k).nextSeq ∧
      v.word1.extractLsb' 20 4 = BitVec.ofNat 4 (s.mst k).queue.length ∧ v.word1.getLsbD 19 = s.atn k ∧
      v.word1.extractLsb' 0 19 = 0#19 ∧ v.word2 = 0 ∧ v.word3 = 0) ∧
    (∀ (s : State) (i : WindowNum),
      let v := guardView s i
      v.word0.extractLsb' 29 3 = 7#3 ∧ v.word0.extractLsb' 25 4 = BitVec.ofNat 4 i.val ∧
      v.word0.getLsbD 24 = (s.win i).enable ∧ (v.word0.getLsbD 23 = true ↔ (s.win i).kind = .accessGuard) ∧
      (v.word0.getLsbD 22 = true ↔ (s.win i).action = .deny) ∧ v.word0.getLsbD 21 = s.windowActive (s.win i) ∧
      v.word0.getLsbD 20 = false ∧ v.word0.extractLsb' 0 20 = (s.win i).base ∧
      v.word1.extractLsb' 26 6 = 0#6 ∧ v.word1.extractLsb' 20 6 = BitVec.ofNat 6 (s.win i).object.val ∧
      v.word1.extractLsb' 0 20 = (s.win i).limit ∧ v.word2 = 0 ∧ v.word3 = 0) ∧
    (∀ (s : State) (m : Master),
      (s.readWindow m (wordAt 0x0C)).extractLsb' 0 3 = outcomeCode (s.port m).result.outcome ∧
      (s.readWindow m (wordAt 0x0C)).extractLsb' 3 5 = reasonField (s.port m).result.reason ∧
      (s.readWindow m (wordAt 0x0C)).extractLsb' 8 6 = (s.port m).result.echo ∧
      (s.readWindow m (wordAt 0x0C)).extractLsb' 14 4 = (s.port m).result.position ∧
      (s.readWindow m (wordAt 0x0C)).extractLsb' 18 7 = (s.port m).result.count ∧
      (s.readWindow m (wordAt 0x0C)).extractLsb' 25 7 = 0#7 ∧
      (s.readWindow m (wordAt 0x18)).extractLsb' 0 8 = (s.mst m).score ∧
      (s.readWindow m (wordAt 0x18)).extractLsb' 8 6 = (s.mst m).quota ∧
      (s.readWindow m (wordAt 0x18)).extractLsb' 14 6 = BitVec.ofNat 6 (s.waitsHeld m) ∧
      (s.readWindow m (wordAt 0x18)).getLsbD 20 = (s.mst m).supervisor ∧
      (s.readWindow m (wordAt 0x18)).getLsbD 21 = (s.mst m).attention ∧
      (s.readWindow m (wordAt 0x18)).getLsbD 22 = (s.mst m).overflow ∧
      (s.readWindow m (wordAt 0x18)).extractLsb' 23 8 = (s.mst m).nextSeq ∧
      (s.readWindow m (wordAt 0x18)).getLsbD 31 = false ∧
      (s.readWindow m (wordAt 0x1C)).extractLsb' 16 2 = viewKindCode (s.port m).viewSelect.kind ∧
      (s.readWindow m (wordAt 0x1C)).extractLsb' 8 6 = (s.port m).viewSelect.index ∧
      (s.readWindow m (wordAt 0x1C)).extractLsb' 0 4 = (s.port m).viewSelect.position ∧
      s.readWindow m (wordAt 0x1C) &&& ~~~0x00033F0F#32 = 0 ∧
      (s.readWindow m (wordAt 0x40)).extractLsb' 0 16 = s.timeBase.divider ∧
      ((s.readWindow m (wordAt 0x40)).getLsbD 16 = true ↔ s.timeBase.runState = .running) ∧
      (s.readWindow m (wordAt 0x40)).extractLsb' 17 15 = 0#15 ∧
      s.readWindow m (wordAt 0x44) = BitVec.ofNat 32 (s.poolFree % 128) ∧
      s.readWindow m (wordAt 0x04) = (s.port m).operandA ∧ s.readWindow m (wordAt 0x08) = (s.port m).operandB ∧
      s.readWindow m (wordAt 0x00) = 0x26400001#32 ∧ s.readWindow m (wordAt 0x3C) = s.timeBase.uptime ∧
      ∀ offset : WindowOffset, 0x48 ≤ 4 * offset.toNat → s.readWindow m offset = 0) ∧
    ∀ (s : State) (m : Master),
      ((s.mst m).queue = [] → s.readWindow m (wordAt 0x10) = 0 ∧ s.readWindow m (wordAt 0x14) = 0) ∧
      (∀ e rest, (s.mst m).queue = e :: rest →
        let w := s.readWindow m (wordAt 0x10)
        w.getLsbD 31 = true ∧ w.extractLsb' 27 4 = e.notice.kindCode ∧ w.extractLsb' 24 3 = e.notice.detailCode ∧
        w.extractLsb' 16 8 = e.seq ∧ w.getLsbD 15 = e.notice.object?.isSome ∧ w.getLsbD 14 = false ∧
        (∀ o, e.notice.object? = some o → w.extractLsb' 8 6 = BitVec.ofNat 6 o.val) ∧
        (e.notice.object? = none → w.extractLsb' 8 6 = 0#6) ∧ w.getLsbD 7 = false ∧
        w.extractLsb' 4 3 = BitVec.ofNat 3 e.notice.otherMaster ∧
        w.extractLsb' 0 4 = BitVec.ofNat 4 (rest.length + 1) ∧
        (s.readWindow m (wordAt 0x14)).extractLsb' 16 16 = 0#16 ∧
        (s.readWindow m (wordAt 0x14)).extractLsb' 8 8 = e.notice.tag ∧
        (s.readWindow m (wordAt 0x14)).extractLsb' 0 8 = e.notice.value) ∧
      (s.log = [] →
        s.readWindow m (wordAt 0x30) = 0 ∧ s.readWindow m (wordAt 0x34) = 0 ∧ s.readWindow m (wordAt 0x38) = 0) ∧
      ∀ l rest, s.log = l :: rest →
        let w := s.readWindow m (wordAt 0x30)
        w.getLsbD 31 = true ∧ w.extractLsb' 26 5 = BitVec.ofNat 5 (rest.length + 1) ∧
        w.extractLsb' 22 4 = BitVec.ofNat 4 l.window.val ∧ w.extractLsb' 16 6 = BitVec.ofNat 6 l.object.val ∧
        (w.getLsbD 15 = true ↔ l.dir = .write) ∧ (w.getLsbD 14 = true ↔ l.cause = .sharedWrite) ∧
        w.extractLsb' 11 3 = stateCode l.objState ∧ w.extractLsb' 8 3 = BitVec.ofNat 3 l.master.val ∧
        w.extractLsb' 0 8 = l.suppressed ∧ (s.readWindow m (wordAt 0x34)).extractLsb' 2 30 = l.addr ∧
        (s.readWindow m (wordAt 0x34)).extractLsb' 0 2 = 0#2 ∧
        (s.readWindow m (wordAt 0x38)).extractLsb' 24 8 = 0#8 ∧
        (s.readWindow m (wordAt 0x38)).extractLsb' 0 24 = l.stamp

/-- The words of CLAIM, SET_QUOTA and SET_TIME_BASE built from their fields by Table 10-3 read back field by field, and
are well formed, but for a SET_QUOTA word just when its quota is above 32 (R24, R26, R103, R152, R172). -/
def Obligations.OperandWordsReadBack : Prop :=
  (∀ (o : ObjNum) (shared wait : Bool) (priority : BitVec 4) (tag : BitVec 8) (limit : BitVec 16),
      let w : Word := BitVec.ofNat 32 o.val ||| (BitVec.ofBool shared).setWidth 32 <<< 8 |||
        (BitVec.ofBool wait).setWidth 32 <<< 9 ||| priority.setWidth 32 <<< 12
      let a : Word := tag.setWidth 32 ||| limit.setWidth 32 <<< 16
      claimMalformed w a = false ∧ objectField w = o ∧ claimMode w = (if shared then .shared else .exclusive) ∧
        claimWait w = wait ∧ claimPriority w = priority ∧ claimTag a = tag ∧ claimWaitLimit a = limit) ∧
    (∀ (m : Master) (quota : BitVec 6),
      let w : Word := BitVec.ofNat 32 m.val ||| quota.setWidth 32 <<< 8
      (quotaMalformed w = true ↔ 32 < quota.toNat) ∧ masterField w = m ∧ quotaField w = quota) ∧
    ∀ (divider : BitVec 16) (running : Bool),
      let w : Word := divider.setWidth 32 ||| (BitVec.ofBool running).setWidth 32 <<< 16
      bitsOutside w timeBaseMask = false ∧ dividerField w = divider ∧
        runStateField w = (if running then .running else .stopped)

/-! ### Rules of the whole part -/

/-- No command, observation or expiry reaches the banked registers of a master but a window access by that master
and the RESET input; and of a master's own command-port writes none changes its OPERAND_A, OPERAND_B, VIEW_SELECT or
snapshot (R21, R24, R158, R159). -/
def Obligations.BanksArePrivate : Prop :=
  ∀ (i : Instr) (s t : State) (k : Master), exec i s = .next t → i ≠ .reset →
    (windowAccess i ≠ some k → t.port k = s.port k) ∧
      ((portWrite i).isSome = true →
        (t.port k).operandA = (s.port k).operandA ∧ (t.port k).operandB = (s.port k).operandB ∧
          (t.port k).viewSelect = (s.port k).viewSelect ∧ (t.port k).snapshot = (s.port k).snapshot)

/-- Settings change by their own command and the RESET input alone: guard windows by CONFIG_GUARD (R126), an
object's configuration by CONFIG_OBJECT (R2), a quota by SET_QUOTA (R103), the supervisor attribute by
SET_SUPERVISOR (R104), attention enable by SET_ATTENTION (R120), and the log by OBSERVATION and ACK_LOG (R140). -/
def Obligations.SettingsChangeByOwnCommand : Prop :=
  ∀ (i : Instr) (s t : State), i.wellFormed = true → exec i s = .next t → i ≠ .reset →
    ((∀ m w, i ≠ .configGuard m w) → t.windows = s.windows) ∧
    ((∀ m w, i ≠ .configObject m w) → ∀ o, (s.obj o).SameConfiguration (t.obj o)) ∧
    ((∀ m w, i ≠ .setQuota m w) → ∀ k, (t.mst k).quota = (s.mst k).quota) ∧
    ((∀ m w, i ≠ .setSupervisor m w) → ∀ k, (t.mst k).supervisor = (s.mst k).supervisor) ∧
    ((∀ m w, i ≠ .setAttention m w) → ∀ k, (t.mst k).attention = (s.mst k).attention) ∧
    ((∀ m w, i ≠ .ackLog m w) → (∀ m addr dir, i ≠ .observation m addr dir) → t.log = s.log)

/-- Every step keeps every event queue within 8 records (R110), and leaves at least one supervisor (R104). -/
def Obligations.StepKeepsQueuesAndSupervisor : Prop :=
  ∀ s t : State, step s = .next t →
    (s.QueuesBounded → t.QueuesBounded) ∧ (s.HasSupervisor → t.HasSupervisor)

/-- Every step keeps the account of the waiter pool: the free entries and the entries standing in lines are always
96 together (R47). -/
def Obligations.StepKeepsPoolConserved : Prop :=
  ∀ s t : State, s.PoolConserved → step s = .next t → t.PoolConserved

/-- Every step keeps the invariant of the part: every object in its row of Table 1-2 (R8), no holder waiting (R4),
lines in order (R50), the pool's account (R47), queues and log within bounds (R110, R140), a supervisor left (R104),
standing by score (R92, R166), quotas and waits at most 32 (R49, R103), a BARRED master holding, waiting on and
watching nothing (R91), the period count at most the divider in force (R150), and no expiry outstanding while
STOPPED (R154). -/
def Obligations.StepKeepsInv : Prop :=
  ∀ s t : State, s.Inv → step s = .next t → t.Inv
end

