-- ==== Sys2Proof/Laws/Sets.lean ====
section
/-! SUPPORT. The laws of sets of masters and of the lists of all masters and objects. -/

namespace Sys2Proof.Machine

@[simp] theorem mem_allMasters (m : Master) : m ∈ allMasters := by revert m; decide

@[simp] theorem mem_allObjects (o : ObjNum) : o ∈ allObjects := List.mem_finRange o

@[simp] theorem mem_allWindows (i : WindowNum) : i ∈ allWindows := List.mem_finRange i

theorem allObjects_nodup : allObjects.Nodup := List.nodup_finRange 64

theorem allMasters_nodup : allMasters.Nodup := by decide

@[simp] theorem isMember_zero (m : Master) : isMember 0#8 m = false := by simp [isMember]

theorem isMember_single (m k : Master) : isMember (single m) k = decide (k = m) := by
  revert m k; decide

theorem isMember_addMember (ms : MasterSet) (m k : Master) :
    isMember (addMember ms m) k = (isMember ms k || decide (k = m)) := by
  rw [← isMember_single]; simp [isMember, addMember]

theorem isMember_removeMember (ms : MasterSet) (m k : Master) :
    isMember (removeMember ms m) k = (isMember ms k && !decide (k = m)) := by
  rw [← isMember_single]; simp [isMember, removeMember]

@[simp] theorem mem_members (ms : MasterSet) (m : Master) : m ∈ members ms ↔ isMember ms m = true := by
  simp [members]

theorem members_nodup (ms : MasterSet) : (members ms).Nodup := allMasters_nodup.filter _

/-- Two sets with the same members are equal. -/
theorem masterSet_ext {a b : MasterSet} (h : ∀ m, isMember a m = isMember b m) : a = b := by
  apply BitVec.eq_of_getLsbD_eq
  intro i hi
  exact h ⟨i, hi⟩

theorem eq_zero_iff_no_member (ms : MasterSet) : ms = 0 ↔ ∀ m, isMember ms m = false := by
  constructor
  · rintro rfl m; simp
  · intro h; exact masterSet_ext fun m => by simp [h m]

theorem members_zero : members 0 = [] := by simp [members]

theorem isMember_foldl_addMember (l : List Master) (ms : MasterSet) (k : Master) :
    isMember (l.foldl addMember ms) k = (isMember ms k || decide (k ∈ l)) := by
  induction l generalizing ms with
  | nil => simp
  | cons x xs ih => simp [ih, isMember_addMember, Bool.or_assoc]

/-- The members of the set of a list are the list's. -/
theorem isMember_setOf (l : List Master) (k : Master) : isMember (setOf l) k = decide (k ∈ l) := by
  simp [setOf, isMember_foldl_addMember]

theorem setOf_singleton (m : Master) : setOf [m] = single m :=
  masterSet_ext fun k => by simp [isMember_setOf, isMember_single]

theorem single_ne_zero (m : Master) : single m ≠ 0 := by revert m; decide

/-- A set from which `m` is removed is empty just when `m` was its only possible member. -/
theorem removeMember_eq_zero (ms : MasterSet) (m : Master) :
    removeMember ms m = 0 ↔ ∀ k, isMember ms k = true → k = m := by
  rw [eq_zero_iff_no_member]
  simp only [isMember_removeMember]
  constructor
  · intro h k hk; have := h k; simp [hk] at this; exact this
  · intro h k
    cases hk : isMember ms k
    · simp
    · simp [h k hk]

end Sys2Proof.Machine
end

