-- ==== Sys2Proof/Laws/State.lean ====
section
/-! SUPPORT. One lemma per field per update of State, each true by rfl, so that no proof unfolds a record update;
then what an update does at the record it names and at every other. -/

namespace Sys2Proof.Machine

variable (s : State)

/-! ### modObj -/

@[simp] theorem State.modObj_masters (o : ObjNum) (f : ObjectRec → ObjectRec) : (s.modObj o f).masters = s.masters := rfl
@[simp] theorem State.modObj_ports (o : ObjNum) (f : ObjectRec → ObjectRec) : (s.modObj o f).ports = s.ports := rfl
@[simp] theorem State.modObj_windows (o : ObjNum) (f : ObjectRec → ObjectRec) : (s.modObj o f).windows = s.windows := rfl
@[simp] theorem State.modObj_poolFree (o : ObjNum) (f : ObjectRec → ObjectRec) : (s.modObj o f).poolFree = s.poolFree := rfl
@[simp] theorem State.modObj_log (o : ObjNum) (f : ObjectRec → ObjectRec) : (s.modObj o f).log = s.log := rfl
@[simp] theorem State.modObj_timeBase (o : ObjNum) (f : ObjectRec → ObjectRec) : (s.modObj o f).timeBase = s.timeBase := rfl
@[simp] theorem State.modObj_resetAsserted (o : ObjNum) (f : ObjectRec → ObjectRec) : (s.modObj o f).resetAsserted = s.resetAsserted := rfl
@[simp] theorem State.modObj_ack (o : ObjNum) (f : ObjectRec → ObjectRec) : (s.modObj o f).ack = s.ack := rfl
@[simp] theorem State.modObj_deny (o : ObjNum) (f : ObjectRec → ObjectRec) : (s.modObj o f).deny = s.deny := rfl
@[simp] theorem State.modObj_dataOut (o : ObjNum) (f : ObjectRec → ObjectRec) : (s.modObj o f).dataOut = s.dataOut := rfl
@[simp] theorem State.modObj_choices (o : ObjNum) (f : ObjectRec → ObjectRec) : (s.modObj o f).choices = s.choices := rfl
@[simp] theorem State.modObj_pending (o : ObjNum) (f : ObjectRec → ObjectRec) : (s.modObj o f).pending = s.pending := rfl
@[simp] theorem State.modObj_mst (o : ObjNum) (f : ObjectRec → ObjectRec) (m' : Master) : (s.modObj o f).mst m' = s.mst m' := rfl
@[simp] theorem State.modObj_port (o : ObjNum) (f : ObjectRec → ObjectRec) (m' : Master) : (s.modObj o f).port m' = s.port m' := rfl
@[simp] theorem State.modObj_win (o : ObjNum) (f : ObjectRec → ObjectRec) (i' : WindowNum) : (s.modObj o f).win i' = s.win i' := rfl

/-! ### modMst -/

@[simp] theorem State.modMst_objects (m : Master) (f : MasterRec → MasterRec) : (s.modMst m f).objects = s.objects := rfl
@[simp] theorem State.modMst_ports (m : Master) (f : MasterRec → MasterRec) : (s.modMst m f).ports = s.ports := rfl
@[simp] theorem State.modMst_windows (m : Master) (f : MasterRec → MasterRec) : (s.modMst m f).windows = s.windows := rfl
@[simp] theorem State.modMst_poolFree (m : Master) (f : MasterRec → MasterRec) : (s.modMst m f).poolFree = s.poolFree := rfl
@[simp] theorem State.modMst_log (m : Master) (f : MasterRec → MasterRec) : (s.modMst m f).log = s.log := rfl
@[simp] theorem State.modMst_timeBase (m : Master) (f : MasterRec → MasterRec) : (s.modMst m f).timeBase = s.timeBase := rfl
@[simp] theorem State.modMst_resetAsserted (m : Master) (f : MasterRec → MasterRec) : (s.modMst m f).resetAsserted = s.resetAsserted := rfl
@[simp] theorem State.modMst_ack (m : Master) (f : MasterRec → MasterRec) : (s.modMst m f).ack = s.ack := rfl
@[simp] theorem State.modMst_deny (m : Master) (f : MasterRec → MasterRec) : (s.modMst m f).deny = s.deny := rfl
@[simp] theorem State.modMst_dataOut (m : Master) (f : MasterRec → MasterRec) : (s.modMst m f).dataOut = s.dataOut := rfl
@[simp] theorem State.modMst_choices (m : Master) (f : MasterRec → MasterRec) : (s.modMst m f).choices = s.choices := rfl
@[simp] theorem State.modMst_pending (m : Master) (f : MasterRec → MasterRec) : (s.modMst m f).pending = s.pending := rfl
@[simp] theorem State.modMst_obj (m : Master) (f : MasterRec → MasterRec) (o' : ObjNum) : (s.modMst m f).obj o' = s.obj o' := rfl
@[simp] theorem State.modMst_port (m : Master) (f : MasterRec → MasterRec) (m' : Master) : (s.modMst m f).port m' = s.port m' := rfl
@[simp] theorem State.modMst_win (m : Master) (f : MasterRec → MasterRec) (i' : WindowNum) : (s.modMst m f).win i' = s.win i' := rfl

/-! ### modPort -/

@[simp] theorem State.modPort_objects (m : Master) (f : PortRec → PortRec) : (s.modPort m f).objects = s.objects := rfl
@[simp] theorem State.modPort_masters (m : Master) (f : PortRec → PortRec) : (s.modPort m f).masters = s.masters := rfl
@[simp] theorem State.modPort_windows (m : Master) (f : PortRec → PortRec) : (s.modPort m f).windows = s.windows := rfl
@[simp] theorem State.modPort_poolFree (m : Master) (f : PortRec → PortRec) : (s.modPort m f).poolFree = s.poolFree := rfl
@[simp] theorem State.modPort_log (m : Master) (f : PortRec → PortRec) : (s.modPort m f).log = s.log := rfl
@[simp] theorem State.modPort_timeBase (m : Master) (f : PortRec → PortRec) : (s.modPort m f).timeBase = s.timeBase := rfl
@[simp] theorem State.modPort_resetAsserted (m : Master) (f : PortRec → PortRec) : (s.modPort m f).resetAsserted = s.resetAsserted := rfl
@[simp] theorem State.modPort_ack (m : Master) (f : PortRec → PortRec) : (s.modPort m f).ack = s.ack := rfl
@[simp] theorem State.modPort_deny (m : Master) (f : PortRec → PortRec) : (s.modPort m f).deny = s.deny := rfl
@[simp] theorem State.modPort_dataOut (m : Master) (f : PortRec → PortRec) : (s.modPort m f).dataOut = s.dataOut := rfl
@[simp] theorem State.modPort_choices (m : Master) (f : PortRec → PortRec) : (s.modPort m f).choices = s.choices := rfl
@[simp] theorem State.modPort_pending (m : Master) (f : PortRec → PortRec) : (s.modPort m f).pending = s.pending := rfl
@[simp] theorem State.modPort_obj (m : Master) (f : PortRec → PortRec) (o' : ObjNum) : (s.modPort m f).obj o' = s.obj o' := rfl
@[simp] theorem State.modPort_mst (m : Master) (f : PortRec → PortRec) (m' : Master) : (s.modPort m f).mst m' = s.mst m' := rfl
@[simp] theorem State.modPort_win (m : Master) (f : PortRec → PortRec) (i' : WindowNum) : (s.modPort m f).win i' = s.win i' := rfl

/-! ### setWin -/

@[simp] theorem State.setWin_objects (i : WindowNum) (g : GuardWindow) : (s.setWin i g).objects = s.objects := rfl
@[simp] theorem State.setWin_masters (i : WindowNum) (g : GuardWindow) : (s.setWin i g).masters = s.masters := rfl
@[simp] theorem State.setWin_ports (i : WindowNum) (g : GuardWindow) : (s.setWin i g).ports = s.ports := rfl
@[simp] theorem State.setWin_poolFree (i : WindowNum) (g : GuardWindow) : (s.setWin i g).poolFree = s.poolFree := rfl
@[simp] theorem State.setWin_log (i : WindowNum) (g : GuardWindow) : (s.setWin i g).log = s.log := rfl
@[simp] theorem State.setWin_timeBase (i : WindowNum) (g : GuardWindow) : (s.setWin i g).timeBase = s.timeBase := rfl
@[simp] theorem State.setWin_resetAsserted (i : WindowNum) (g : GuardWindow) : (s.setWin i g).resetAsserted = s.resetAsserted := rfl
@[simp] theorem State.setWin_ack (i : WindowNum) (g : GuardWindow) : (s.setWin i g).ack = s.ack := rfl
@[simp] theorem State.setWin_deny (i : WindowNum) (g : GuardWindow) : (s.setWin i g).deny = s.deny := rfl
@[simp] theorem State.setWin_dataOut (i : WindowNum) (g : GuardWindow) : (s.setWin i g).dataOut = s.dataOut := rfl
@[simp] theorem State.setWin_choices (i : WindowNum) (g : GuardWindow) : (s.setWin i g).choices = s.choices := rfl
@[simp] theorem State.setWin_pending (i : WindowNum) (g : GuardWindow) : (s.setWin i g).pending = s.pending := rfl
@[simp] theorem State.setWin_obj (i : WindowNum) (g : GuardWindow) (o' : ObjNum) : (s.setWin i g).obj o' = s.obj o' := rfl
@[simp] theorem State.setWin_mst (i : WindowNum) (g : GuardWindow) (m' : Master) : (s.setWin i g).mst m' = s.mst m' := rfl
@[simp] theorem State.setWin_port (i : WindowNum) (g : GuardWindow) (m' : Master) : (s.setWin i g).port m' = s.port m' := rfl

/-! ### post -/

@[simp] theorem State.post_objects (m : Master) (n : Notice) : (s.post m n).objects = s.objects := rfl
@[simp] theorem State.post_ports (m : Master) (n : Notice) : (s.post m n).ports = s.ports := rfl
@[simp] theorem State.post_windows (m : Master) (n : Notice) : (s.post m n).windows = s.windows := rfl
@[simp] theorem State.post_poolFree (m : Master) (n : Notice) : (s.post m n).poolFree = s.poolFree := rfl
@[simp] theorem State.post_log (m : Master) (n : Notice) : (s.post m n).log = s.log := rfl
@[simp] theorem State.post_timeBase (m : Master) (n : Notice) : (s.post m n).timeBase = s.timeBase := rfl
@[simp] theorem State.post_resetAsserted (m : Master) (n : Notice) : (s.post m n).resetAsserted = s.resetAsserted := rfl
@[simp] theorem State.post_ack (m : Master) (n : Notice) : (s.post m n).ack = s.ack := rfl
@[simp] theorem State.post_deny (m : Master) (n : Notice) : (s.post m n).deny = s.deny := rfl
@[simp] theorem State.post_dataOut (m : Master) (n : Notice) : (s.post m n).dataOut = s.dataOut := rfl
@[simp] theorem State.post_choices (m : Master) (n : Notice) : (s.post m n).choices = s.choices := rfl
@[simp] theorem State.post_pending (m : Master) (n : Notice) : (s.post m n).pending = s.pending := rfl
@[simp] theorem State.post_obj (m : Master) (n : Notice) (o' : ObjNum) : (s.post m n).obj o' = s.obj o' := rfl
@[simp] theorem State.post_port (m : Master) (n : Notice) (m' : Master) : (s.post m n).port m' = s.port m' := rfl
@[simp] theorem State.post_win (m : Master) (n : Notice) (i' : WindowNum) : (s.post m n).win i' = s.win i' := rfl

/-! ### returnEntries -/

@[simp] theorem State.returnEntries_objects (k : Nat) : (s.returnEntries k).objects = s.objects := rfl
@[simp] theorem State.returnEntries_masters (k : Nat) : (s.returnEntries k).masters = s.masters := rfl
@[simp] theorem State.returnEntries_ports (k : Nat) : (s.returnEntries k).ports = s.ports := rfl
@[simp] theorem State.returnEntries_windows (k : Nat) : (s.returnEntries k).windows = s.windows := rfl
@[simp] theorem State.returnEntries_log (k : Nat) : (s.returnEntries k).log = s.log := rfl
@[simp] theorem State.returnEntries_timeBase (k : Nat) : (s.returnEntries k).timeBase = s.timeBase := rfl
@[simp] theorem State.returnEntries_resetAsserted (k : Nat) : (s.returnEntries k).resetAsserted = s.resetAsserted := rfl
@[simp] theorem State.returnEntries_ack (k : Nat) : (s.returnEntries k).ack = s.ack := rfl
@[simp] theorem State.returnEntries_deny (k : Nat) : (s.returnEntries k).deny = s.deny := rfl
@[simp] theorem State.returnEntries_dataOut (k : Nat) : (s.returnEntries k).dataOut = s.dataOut := rfl
@[simp] theorem State.returnEntries_choices (k : Nat) : (s.returnEntries k).choices = s.choices := rfl
@[simp] theorem State.returnEntries_pending (k : Nat) : (s.returnEntries k).pending = s.pending := rfl
@[simp] theorem State.returnEntries_obj (k : Nat) (o' : ObjNum) : (s.returnEntries k).obj o' = s.obj o' := rfl
@[simp] theorem State.returnEntries_mst (k : Nat) (m' : Master) : (s.returnEntries k).mst m' = s.mst m' := rfl
@[simp] theorem State.returnEntries_port (k : Nat) (m' : Master) : (s.returnEntries k).port m' = s.port m' := rfl
@[simp] theorem State.returnEntries_win (k : Nat) (i' : WindowNum) : (s.returnEntries k).win i' = s.win i' := rfl

/-! ### takeEntry -/

@[simp] theorem State.takeEntry_objects : (s.takeEntry).objects = s.objects := rfl
@[simp] theorem State.takeEntry_masters : (s.takeEntry).masters = s.masters := rfl
@[simp] theorem State.takeEntry_ports : (s.takeEntry).ports = s.ports := rfl
@[simp] theorem State.takeEntry_windows : (s.takeEntry).windows = s.windows := rfl
@[simp] theorem State.takeEntry_log : (s.takeEntry).log = s.log := rfl
@[simp] theorem State.takeEntry_timeBase : (s.takeEntry).timeBase = s.timeBase := rfl
@[simp] theorem State.takeEntry_resetAsserted : (s.takeEntry).resetAsserted = s.resetAsserted := rfl
@[simp] theorem State.takeEntry_ack : (s.takeEntry).ack = s.ack := rfl
@[simp] theorem State.takeEntry_deny : (s.takeEntry).deny = s.deny := rfl
@[simp] theorem State.takeEntry_dataOut : (s.takeEntry).dataOut = s.dataOut := rfl
@[simp] theorem State.takeEntry_choices : (s.takeEntry).choices = s.choices := rfl
@[simp] theorem State.takeEntry_pending : (s.takeEntry).pending = s.pending := rfl
@[simp] theorem State.takeEntry_obj (o' : ObjNum) : (s.takeEntry).obj o' = s.obj o' := rfl
@[simp] theorem State.takeEntry_mst (m' : Master) : (s.takeEntry).mst m' = s.mst m' := rfl
@[simp] theorem State.takeEntry_port (m' : Master) : (s.takeEntry).port m' = s.port m' := rfl
@[simp] theorem State.takeEntry_win (i' : WindowNum) : (s.takeEntry).win i' = s.win i' := rfl

/-! ### answer -/

@[simp] theorem State.answer_objects (m : Master) (r : ResultRec) : (s.answer m r).objects = s.objects := rfl
@[simp] theorem State.answer_masters (m : Master) (r : ResultRec) : (s.answer m r).masters = s.masters := rfl
@[simp] theorem State.answer_windows (m : Master) (r : ResultRec) : (s.answer m r).windows = s.windows := rfl
@[simp] theorem State.answer_poolFree (m : Master) (r : ResultRec) : (s.answer m r).poolFree = s.poolFree := rfl
@[simp] theorem State.answer_log (m : Master) (r : ResultRec) : (s.answer m r).log = s.log := rfl
@[simp] theorem State.answer_timeBase (m : Master) (r : ResultRec) : (s.answer m r).timeBase = s.timeBase := rfl
@[simp] theorem State.answer_resetAsserted (m : Master) (r : ResultRec) : (s.answer m r).resetAsserted = s.resetAsserted := rfl
@[simp] theorem State.answer_ack (m : Master) (r : ResultRec) : (s.answer m r).ack = s.ack := rfl
@[simp] theorem State.answer_deny (m : Master) (r : ResultRec) : (s.answer m r).deny = s.deny := rfl
@[simp] theorem State.answer_dataOut (m : Master) (r : ResultRec) : (s.answer m r).dataOut = s.dataOut := rfl
@[simp] theorem State.answer_choices (m : Master) (r : ResultRec) : (s.answer m r).choices = s.choices := rfl
@[simp] theorem State.answer_pending (m : Master) (r : ResultRec) : (s.answer m r).pending = s.pending := rfl
@[simp] theorem State.answer_obj (m : Master) (r : ResultRec) (o' : ObjNum) : (s.answer m r).obj o' = s.obj o' := rfl
@[simp] theorem State.answer_mst (m : Master) (r : ResultRec) (m' : Master) : (s.answer m r).mst m' = s.mst m' := rfl
@[simp] theorem State.answer_win (m : Master) (r : ResultRec) (i' : WindowNum) : (s.answer m r).win i' = s.win i' := rfl

/-! ### removeWaiter -/

@[simp] theorem State.removeWaiter_masters (o : ObjNum) (m : Master) : (s.removeWaiter o m).masters = s.masters := rfl
@[simp] theorem State.removeWaiter_ports (o : ObjNum) (m : Master) : (s.removeWaiter o m).ports = s.ports := rfl
@[simp] theorem State.removeWaiter_windows (o : ObjNum) (m : Master) : (s.removeWaiter o m).windows = s.windows := rfl
@[simp] theorem State.removeWaiter_log (o : ObjNum) (m : Master) : (s.removeWaiter o m).log = s.log := rfl
@[simp] theorem State.removeWaiter_timeBase (o : ObjNum) (m : Master) : (s.removeWaiter o m).timeBase = s.timeBase := rfl
@[simp] theorem State.removeWaiter_resetAsserted (o : ObjNum) (m : Master) : (s.removeWaiter o m).resetAsserted = s.resetAsserted := rfl
@[simp] theorem State.removeWaiter_ack (o : ObjNum) (m : Master) : (s.removeWaiter o m).ack = s.ack := rfl
@[simp] theorem State.removeWaiter_deny (o : ObjNum) (m : Master) : (s.removeWaiter o m).deny = s.deny := rfl
@[simp] theorem State.removeWaiter_dataOut (o : ObjNum) (m : Master) : (s.removeWaiter o m).dataOut = s.dataOut := rfl
@[simp] theorem State.removeWaiter_choices (o : ObjNum) (m : Master) : (s.removeWaiter o m).choices = s.choices := rfl
@[simp] theorem State.removeWaiter_pending (o : ObjNum) (m : Master) : (s.removeWaiter o m).pending = s.pending := rfl
@[simp] theorem State.removeWaiter_mst (o : ObjNum) (m : Master) (m' : Master) : (s.removeWaiter o m).mst m' = s.mst m' := rfl
@[simp] theorem State.removeWaiter_port (o : ObjNum) (m : Master) (m' : Master) : (s.removeWaiter o m).port m' = s.port m' := rfl
@[simp] theorem State.removeWaiter_win (o : ObjNum) (m : Master) (i' : WindowNum) : (s.removeWaiter o m).win i' = s.win i' := rfl

/-! ### dropWatch -/

@[simp] theorem State.dropWatch_masters (m : Master) (o : ObjNum) : (s.dropWatch m o).masters = s.masters := rfl
@[simp] theorem State.dropWatch_ports (m : Master) (o : ObjNum) : (s.dropWatch m o).ports = s.ports := rfl
@[simp] theorem State.dropWatch_windows (m : Master) (o : ObjNum) : (s.dropWatch m o).windows = s.windows := rfl
@[simp] theorem State.dropWatch_poolFree (m : Master) (o : ObjNum) : (s.dropWatch m o).poolFree = s.poolFree := rfl
@[simp] theorem State.dropWatch_log (m : Master) (o : ObjNum) : (s.dropWatch m o).log = s.log := rfl
@[simp] theorem State.dropWatch_timeBase (m : Master) (o : ObjNum) : (s.dropWatch m o).timeBase = s.timeBase := rfl
@[simp] theorem State.dropWatch_resetAsserted (m : Master) (o : ObjNum) : (s.dropWatch m o).resetAsserted = s.resetAsserted := rfl
@[simp] theorem State.dropWatch_ack (m : Master) (o : ObjNum) : (s.dropWatch m o).ack = s.ack := rfl
@[simp] theorem State.dropWatch_deny (m : Master) (o : ObjNum) : (s.dropWatch m o).deny = s.deny := rfl
@[simp] theorem State.dropWatch_dataOut (m : Master) (o : ObjNum) : (s.dropWatch m o).dataOut = s.dataOut := rfl
@[simp] theorem State.dropWatch_choices (m : Master) (o : ObjNum) : (s.dropWatch m o).choices = s.choices := rfl
@[simp] theorem State.dropWatch_pending (m : Master) (o : ObjNum) : (s.dropWatch m o).pending = s.pending := rfl
@[simp] theorem State.dropWatch_mst (m : Master) (o : ObjNum) (m' : Master) : (s.dropWatch m o).mst m' = s.mst m' := rfl
@[simp] theorem State.dropWatch_port (m : Master) (o : ObjNum) (m' : Master) : (s.dropWatch m o).port m' = s.port m' := rfl
@[simp] theorem State.dropWatch_win (m : Master) (o : ObjNum) (i' : WindowNum) : (s.dropWatch m o).win i' = s.win i' := rfl

/-! ### acknowledged -/

@[simp] theorem State.acknowledged_objects : (s.acknowledged).objects = s.objects := rfl
@[simp] theorem State.acknowledged_masters : (s.acknowledged).masters = s.masters := rfl
@[simp] theorem State.acknowledged_ports : (s.acknowledged).ports = s.ports := rfl
@[simp] theorem State.acknowledged_windows : (s.acknowledged).windows = s.windows := rfl
@[simp] theorem State.acknowledged_poolFree : (s.acknowledged).poolFree = s.poolFree := rfl
@[simp] theorem State.acknowledged_log : (s.acknowledged).log = s.log := rfl
@[simp] theorem State.acknowledged_timeBase : (s.acknowledged).timeBase = s.timeBase := rfl
@[simp] theorem State.acknowledged_resetAsserted : (s.acknowledged).resetAsserted = s.resetAsserted := rfl
@[simp] theorem State.acknowledged_ack : (s.acknowledged).ack = true := rfl
@[simp] theorem State.acknowledged_deny : (s.acknowledged).deny = false := rfl
@[simp] theorem State.acknowledged_dataOut : (s.acknowledged).dataOut = none := rfl
@[simp] theorem State.acknowledged_choices : (s.acknowledged).choices = s.choices := rfl
@[simp] theorem State.acknowledged_pending : (s.acknowledged).pending = s.pending := rfl
@[simp] theorem State.acknowledged_obj (o' : ObjNum) : (s.acknowledged).obj o' = s.obj o' := rfl
@[simp] theorem State.acknowledged_mst (m' : Master) : (s.acknowledged).mst m' = s.mst m' := rfl
@[simp] theorem State.acknowledged_port (m' : Master) : (s.acknowledged).port m' = s.port m' := rfl
@[simp] theorem State.acknowledged_win (i' : WindowNum) : (s.acknowledged).win i' = s.win i' := rfl

/-! ### deasserted -/

@[simp] theorem State.deasserted_objects : (s.deasserted).objects = s.objects := rfl
@[simp] theorem State.deasserted_masters : (s.deasserted).masters = s.masters := rfl
@[simp] theorem State.deasserted_ports : (s.deasserted).ports = s.ports := rfl
@[simp] theorem State.deasserted_windows : (s.deasserted).windows = s.windows := rfl
@[simp] theorem State.deasserted_poolFree : (s.deasserted).poolFree = s.poolFree := rfl
@[simp] theorem State.deasserted_log : (s.deasserted).log = s.log := rfl
@[simp] theorem State.deasserted_timeBase : (s.deasserted).timeBase = s.timeBase := rfl
@[simp] theorem State.deasserted_resetAsserted : (s.deasserted).resetAsserted = s.resetAsserted := rfl
@[simp] theorem State.deasserted_ack : (s.deasserted).ack = false := rfl
@[simp] theorem State.deasserted_deny : (s.deasserted).deny = false := rfl
@[simp] theorem State.deasserted_dataOut : (s.deasserted).dataOut = none := rfl
@[simp] theorem State.deasserted_choices : (s.deasserted).choices = s.choices := rfl
@[simp] theorem State.deasserted_pending : (s.deasserted).pending = s.pending := rfl
@[simp] theorem State.deasserted_obj (o' : ObjNum) : (s.deasserted).obj o' = s.obj o' := rfl
@[simp] theorem State.deasserted_mst (m' : Master) : (s.deasserted).mst m' = s.mst m' := rfl
@[simp] theorem State.deasserted_port (m' : Master) : (s.deasserted).port m' = s.port m' := rfl
@[simp] theorem State.deasserted_win (i' : WindowNum) : (s.deasserted).win i' = s.win i' := rfl

/-! ### Updates of one field, seen through the accessors -/

@[simp] theorem State.with_poolFree_obj (x : Nat) (o' : ObjNum) : ({ s with poolFree := x } : State).obj o' = s.obj o' := rfl
@[simp] theorem State.with_poolFree_mst (x : Nat) (m' : Master) : ({ s with poolFree := x } : State).mst m' = s.mst m' := rfl
@[simp] theorem State.with_poolFree_port (x : Nat) (m' : Master) : ({ s with poolFree := x } : State).port m' = s.port m' := rfl
@[simp] theorem State.with_poolFree_win (x : Nat) (i' : WindowNum) : ({ s with poolFree := x } : State).win i' = s.win i' := rfl
@[simp] theorem State.with_log_obj (x : List LogRecord) (o' : ObjNum) : ({ s with log := x } : State).obj o' = s.obj o' := rfl
@[simp] theorem State.with_log_mst (x : List LogRecord) (m' : Master) : ({ s with log := x } : State).mst m' = s.mst m' := rfl
@[simp] theorem State.with_log_port (x : List LogRecord) (m' : Master) : ({ s with log := x } : State).port m' = s.port m' := rfl
@[simp] theorem State.with_log_win (x : List LogRecord) (i' : WindowNum) : ({ s with log := x } : State).win i' = s.win i' := rfl
@[simp] theorem State.with_timeBase_obj (x : TimeBase) (o' : ObjNum) : ({ s with timeBase := x } : State).obj o' = s.obj o' := rfl
@[simp] theorem State.with_timeBase_mst (x : TimeBase) (m' : Master) : ({ s with timeBase := x } : State).mst m' = s.mst m' := rfl
@[simp] theorem State.with_timeBase_port (x : TimeBase) (m' : Master) : ({ s with timeBase := x } : State).port m' = s.port m' := rfl
@[simp] theorem State.with_timeBase_win (x : TimeBase) (i' : WindowNum) : ({ s with timeBase := x } : State).win i' = s.win i' := rfl
@[simp] theorem State.with_resetAsserted_obj (x : Bool) (o' : ObjNum) : ({ s with resetAsserted := x } : State).obj o' = s.obj o' := rfl
@[simp] theorem State.with_resetAsserted_mst (x : Bool) (m' : Master) : ({ s with resetAsserted := x } : State).mst m' = s.mst m' := rfl
@[simp] theorem State.with_resetAsserted_port (x : Bool) (m' : Master) : ({ s with resetAsserted := x } : State).port m' = s.port m' := rfl
@[simp] theorem State.with_resetAsserted_win (x : Bool) (i' : WindowNum) : ({ s with resetAsserted := x } : State).win i' = s.win i' := rfl
@[simp] theorem State.with_deny_obj (x : Bool) (o' : ObjNum) : ({ s with deny := x } : State).obj o' = s.obj o' := rfl
@[simp] theorem State.with_deny_mst (x : Bool) (m' : Master) : ({ s with deny := x } : State).mst m' = s.mst m' := rfl
@[simp] theorem State.with_deny_port (x : Bool) (m' : Master) : ({ s with deny := x } : State).port m' = s.port m' := rfl
@[simp] theorem State.with_deny_win (x : Bool) (i' : WindowNum) : ({ s with deny := x } : State).win i' = s.win i' := rfl
@[simp] theorem State.with_dataOut_obj (x : Option Word) (o' : ObjNum) : ({ s with dataOut := x } : State).obj o' = s.obj o' := rfl
@[simp] theorem State.with_dataOut_mst (x : Option Word) (m' : Master) : ({ s with dataOut := x } : State).mst m' = s.mst m' := rfl
@[simp] theorem State.with_dataOut_port (x : Option Word) (m' : Master) : ({ s with dataOut := x } : State).port m' = s.port m' := rfl
@[simp] theorem State.with_dataOut_win (x : Option Word) (i' : WindowNum) : ({ s with dataOut := x } : State).win i' = s.win i' := rfl
@[simp] theorem State.with_choices_obj (x : Nat) (o' : ObjNum) : ({ s with choices := x } : State).obj o' = s.obj o' := rfl
@[simp] theorem State.with_choices_mst (x : Nat) (m' : Master) : ({ s with choices := x } : State).mst m' = s.mst m' := rfl
@[simp] theorem State.with_choices_port (x : Nat) (m' : Master) : ({ s with choices := x } : State).port m' = s.port m' := rfl
@[simp] theorem State.with_choices_win (x : Nat) (i' : WindowNum) : ({ s with choices := x } : State).win i' = s.win i' := rfl
@[simp] theorem State.with_pending_obj (x : List Instr) (o' : ObjNum) : ({ s with pending := x } : State).obj o' = s.obj o' := rfl
@[simp] theorem State.with_pending_mst (x : List Instr) (m' : Master) : ({ s with pending := x } : State).mst m' = s.mst m' := rfl
@[simp] theorem State.with_pending_port (x : List Instr) (m' : Master) : ({ s with pending := x } : State).port m' = s.port m' := rfl
@[simp] theorem State.with_pending_win (x : List Instr) (i' : WindowNum) : ({ s with pending := x } : State).win i' = s.win i' := rfl

/-! ### An update at its own record and at the others -/

theorem State.modObj_obj (o : ObjNum) (f : ObjectRec → ObjectRec) (p : ObjNum) :
    (s.modObj o f).obj p = if p = o then f (s.obj o) else s.obj p := by
  by_cases h : p = o
  · subst h; simp [State.obj, State.modObj]
  · have : o.val ≠ p.val := fun e => h (Fin.ext e.symm)
    simp [State.obj, State.modObj, h, this]

@[simp] theorem State.modObj_obj_self (o : ObjNum) (f : ObjectRec → ObjectRec) :
    (s.modObj o f).obj o = f (s.obj o) := by simp [State.modObj_obj]

theorem State.modObj_obj_ne {o p : ObjNum} (h : p ≠ o) (f : ObjectRec → ObjectRec) :
    (s.modObj o f).obj p = s.obj p := by simp [State.modObj_obj, h]

theorem State.modMst_mst (m : Master) (f : MasterRec → MasterRec) (k : Master) :
    (s.modMst m f).mst k = if k = m then f (s.mst m) else s.mst k := by
  by_cases h : k = m
  · subst h; simp [State.mst, State.modMst]
  · have : m.val ≠ k.val := fun e => h (Fin.ext e.symm)
    simp [State.mst, State.modMst, h, this]

@[simp] theorem State.modMst_mst_self (m : Master) (f : MasterRec → MasterRec) :
    (s.modMst m f).mst m = f (s.mst m) := by simp [State.modMst_mst]

theorem State.modMst_mst_ne {m k : Master} (h : k ≠ m) (f : MasterRec → MasterRec) :
    (s.modMst m f).mst k = s.mst k := by simp [State.modMst_mst, h]

theorem State.modPort_port (m : Master) (f : PortRec → PortRec) (k : Master) :
    (s.modPort m f).port k = if k = m then f (s.port m) else s.port k := by
  by_cases h : k = m
  · subst h; simp [State.port, State.modPort]
  · have : m.val ≠ k.val := fun e => h (Fin.ext e.symm)
    simp [State.port, State.modPort, h, this]

@[simp] theorem State.modPort_port_self (m : Master) (f : PortRec → PortRec) :
    (s.modPort m f).port m = f (s.port m) := by simp [State.modPort_port]

theorem State.modPort_port_ne {m k : Master} (h : k ≠ m) (f : PortRec → PortRec) :
    (s.modPort m f).port k = s.port k := by simp [State.modPort_port, h]

theorem State.setWin_win (i : WindowNum) (g : GuardWindow) (j : WindowNum) :
    (s.setWin i g).win j = if j = i then g else s.win j := by
  by_cases h : j = i
  · subst h; simp [State.win, State.setWin]
  · have : i.val ≠ j.val := fun e => h (Fin.ext e.symm)
    simp [State.win, State.setWin, h, this]

@[simp] theorem State.setWin_win_self (i : WindowNum) (g : GuardWindow) : (s.setWin i g).win i = g := by
  simp [State.setWin_win]

theorem State.post_mst (m : Master) (n : Notice) (k : Master) :
    (s.post m n).mst k = if k = m then (s.mst m).post n else s.mst k := State.modMst_mst s m _ k

@[simp] theorem State.post_mst_self (m : Master) (n : Notice) : (s.post m n).mst m = (s.mst m).post n := by
  simp [State.post_mst]

theorem State.post_mst_ne {m k : Master} (h : k ≠ m) (n : Notice) : (s.post m n).mst k = s.mst k := by
  simp [State.post_mst, h]

theorem State.answer_port (m : Master) (r : ResultRec) (k : Master) :
    (s.answer m r).port k = if k = m then { s.port m with result := r } else s.port k := State.modPort_port s m _ k

@[simp] theorem State.answer_port_self (m : Master) (r : ResultRec) :
    (s.answer m r).port m = { s.port m with result := r } := by simp [State.answer_port]

theorem State.answer_port_ne {m k : Master} (h : k ≠ m) (r : ResultRec) : (s.answer m r).port k = s.port k := by
  simp [State.answer_port, h]

theorem State.removeWaiter_obj (o : ObjNum) (m : Master) (p : ObjNum) :
    (s.removeWaiter o m).obj p =
      if p = o then { s.obj o with line := (s.obj o).line.filter fun e => e.master != m } else s.obj p :=
  State.modObj_obj s o (fun r => { r with line := r.line.filter fun e => e.master != m }) p

@[simp] theorem State.removeWaiter_poolFree (o : ObjNum) (m : Master) :
    (s.removeWaiter o m).poolFree = s.poolFree + (s.obj o).line.countP fun e => e.master == m := rfl

theorem State.dropWatch_obj (m : Master) (o p : ObjNum) :
    (s.dropWatch m o).obj p =
      if p = o then { s.obj o with watchers := removeMember (s.obj o).watchers m } else s.obj p :=
  State.modObj_obj s o (fun r => { r with watchers := removeMember r.watchers m }) p

@[simp] theorem State.returnEntries_poolFree (k : Nat) : (s.returnEntries k).poolFree = s.poolFree + k := rfl

@[simp] theorem State.takeEntry_poolFree : s.takeEntry.poolFree = s.poolFree - 1 := rfl

/-! ### The state after reset -/

@[simp] theorem State.reset_obj (o : ObjNum) : State.reset.obj o = ObjectRec.reset := by
  simp [State.obj, State.reset]

theorem State.reset_mst (m : Master) : State.reset.mst m = MasterRec.reset (m == 0) := by
  revert m; decide

@[simp] theorem State.reset_port (m : Master) : State.reset.port m = PortRec.reset := by
  simp [State.port, State.reset]

@[simp] theorem State.reset_win (i : WindowNum) : State.reset.win i = GuardWindow.reset := by
  simp [State.win, State.reset]

/-! ### mapVector -/

@[simp] theorem mapVector_getElem {α : Type} {n : Nat} (f : α → α) (v : Vector α n) (i : Nat) (h : i < n) :
    (mapVector f v)[i] = f v[i] := by
  simp [mapVector]

end Sys2Proof.Machine
end

