-- ==== Sys2Proof/Laws/Post.lean ====
section
/-! SUPPORT. What posting does and leaves alone: one record, one master, a list of masters. -/

namespace Sys2Proof.Machine

/-! ### One master record -/

@[simp] theorem MasterRec.post_score (r : MasterRec) (n : Notice) : (r.post n).score = r.score := by
  unfold MasterRec.post; split <;> rfl

@[simp] theorem MasterRec.post_standing (r : MasterRec) (n : Notice) : (r.post n).standing = r.standing := by
  unfold MasterRec.post; split <;> rfl

@[simp] theorem MasterRec.post_quota (r : MasterRec) (n : Notice) : (r.post n).quota = r.quota := by
  unfold MasterRec.post; split <;> rfl

@[simp] theorem MasterRec.post_supervisor (r : MasterRec) (n : Notice) : (r.post n).supervisor = r.supervisor := by
  unfold MasterRec.post; split <;> rfl

@[simp] theorem MasterRec.post_attention (r : MasterRec) (n : Notice) : (r.post n).attention = r.attention := by
  unfold MasterRec.post; split <;> rfl

@[simp] theorem MasterRec.post_nextSeq (r : MasterRec) (n : Notice) : (r.post n).nextSeq = r.nextSeq + 1 := by
  unfold MasterRec.post; split <;> rfl

/-- A record posted to a queue with room is stored at the tail with the next sequence (R113). -/
theorem MasterRec.post_of_room {r : MasterRec} (h : r.queue.length < queueCapacity) (n : Notice) :
    r.post n = { r with nextSeq := r.nextSeq + 1, queue := r.queue ++ [{ seq := r.nextSeq, notice := n }] } := by
  simp [MasterRec.post, h]

/-- A record posted to a full queue is discarded, and the overflow flag set (R114). -/
theorem MasterRec.post_of_full {r : MasterRec} (h : ¬ r.queue.length < queueCapacity) (n : Notice) :
    r.post n = { r with nextSeq := r.nextSeq + 1, overflow := true } := by
  simp [MasterRec.post, h]

/-- Posting keeps a queue within its capacity (R110). -/
theorem MasterRec.post_queue_length_le {r : MasterRec} (h : r.queue.length ≤ queueCapacity) (n : Notice) :
    (r.post n).queue.length ≤ queueCapacity := by
  by_cases room : r.queue.length < queueCapacity
  · rw [post_of_room room]; simpa using room
  · rw [post_of_full room]; exact h

/-! ### A list of masters -/

variable (s : State)

theorem State.postEach_nil (n : Notice) : s.postEach [] n = s := rfl

theorem State.postEach_cons (m : Master) (l : List Master) (n : Notice) :
    s.postEach (m :: l) n = (s.post m n).postEach l n := rfl

/-- Posting changes the master records alone. -/
theorem State.postEach_eq (l : List Master) (n : Notice) :
    s.postEach l n = { s with masters := (s.postEach l n).masters } := by
  induction l generalizing s with
  | nil => rfl
  | cons m l ih => rw [postEach_cons, ih]; rfl

@[simp] theorem State.postEach_objects (l : List Master) (n : Notice) : (s.postEach l n).objects = s.objects := by
  rw [postEach_eq]

@[simp] theorem State.postEach_ports (l : List Master) (n : Notice) : (s.postEach l n).ports = s.ports := by
  rw [postEach_eq]

@[simp] theorem State.postEach_windows (l : List Master) (n : Notice) : (s.postEach l n).windows = s.windows := by
  rw [postEach_eq]

@[simp] theorem State.postEach_poolFree (l : List Master) (n : Notice) : (s.postEach l n).poolFree = s.poolFree := by
  rw [postEach_eq]

@[simp] theorem State.postEach_log (l : List Master) (n : Notice) : (s.postEach l n).log = s.log := by
  rw [postEach_eq]

@[simp] theorem State.postEach_timeBase (l : List Master) (n : Notice) : (s.postEach l n).timeBase = s.timeBase := by
  rw [postEach_eq]

@[simp] theorem State.postEach_resetAsserted (l : List Master) (n : Notice) :
    (s.postEach l n).resetAsserted = s.resetAsserted := by
  rw [postEach_eq]

@[simp] theorem State.postEach_ack (l : List Master) (n : Notice) : (s.postEach l n).ack = s.ack := by
  rw [postEach_eq]

@[simp] theorem State.postEach_deny (l : List Master) (n : Notice) : (s.postEach l n).deny = s.deny := by
  rw [postEach_eq]

@[simp] theorem State.postEach_dataOut (l : List Master) (n : Notice) : (s.postEach l n).dataOut = s.dataOut := by
  rw [postEach_eq]

@[simp] theorem State.postEach_choices (l : List Master) (n : Notice) : (s.postEach l n).choices = s.choices := by
  rw [postEach_eq]

@[simp] theorem State.postEach_pending (l : List Master) (n : Notice) : (s.postEach l n).pending = s.pending := by
  rw [postEach_eq]

@[simp] theorem State.postEach_obj (l : List Master) (n : Notice) (o : ObjNum) :
    (s.postEach l n).obj o = s.obj o := by
  rw [postEach_eq]; rfl

@[simp] theorem State.postEach_port (l : List Master) (n : Notice) (m : Master) :
    (s.postEach l n).port m = s.port m := by
  rw [postEach_eq]; rfl

@[simp] theorem State.postEach_win (l : List Master) (n : Notice) (i : WindowNum) :
    (s.postEach l n).win i = s.win i := by
  rw [postEach_eq]; rfl

/-- A master not in the list is posted nothing. -/
theorem State.postEach_mst_of_not_mem {l : List Master} {k : Master} (h : k ∉ l) (n : Notice) :
    (s.postEach l n).mst k = s.mst k := by
  induction l generalizing s with
  | nil => rfl
  | cons m l ih =>
    simp only [List.mem_cons, not_or] at h
    rw [postEach_cons, ih _ h.2, post_mst_ne _ h.1]

/-- A master that stands once in the list is posted the record once. -/
theorem State.postEach_mst_of_mem {l : List Master} (nodup : l.Nodup) {k : Master} (h : k ∈ l) (n : Notice) :
    (s.postEach l n).mst k = (s.mst k).post n := by
  induction l generalizing s with
  | nil => simp at h
  | cons m l ih =>
    simp only [List.nodup_cons] at nodup
    rw [postEach_cons]
    by_cases e : k = m
    · subst e; rw [postEach_mst_of_not_mem _ nodup.1, post_mst_self]
    · have : k ∈ l := by simpa [e] using h
      rw [ih _ nodup.2 this, post_mst_ne _ e]

/-- Each member of a set is posted the record once, and no other master is. -/
theorem State.postEach_members_mst (ms : MasterSet) (n : Notice) (k : Master) :
    (s.postEach (members ms) n).mst k = if isMember ms k then (s.mst k).post n else s.mst k := by
  by_cases h : isMember ms k = true
  · rw [postEach_mst_of_mem s (members_nodup ms) (by simpa using h)]; simp [h]
  · rw [postEach_mst_of_not_mem s (by simpa using h)]; simp [h]

theorem State.supervisors_nodup : s.supervisors.Nodup := allMasters_nodup.filter _

@[simp] theorem State.mem_supervisors (m : Master) : m ∈ s.supervisors ↔ (s.mst m).supervisor = true := by
  simp [supervisors]

/-- Each supervisor is posted the notice once, and no other master is (R104). -/
theorem State.postSupervisors_mst (n : Notice) (k : Master) :
    (s.postSupervisors n).mst k = if (s.mst k).supervisor then (s.mst k).post n else s.mst k := by
  unfold postSupervisors
  by_cases h : (s.mst k).supervisor = true
  · rw [postEach_mst_of_mem s s.supervisors_nodup (by simpa using h)]; simp [h]
  · rw [postEach_mst_of_not_mem s (by simpa using h)]; simp [h]

@[simp] theorem State.postSupervisors_obj (n : Notice) (o : ObjNum) : (s.postSupervisors n).obj o = s.obj o := by
  simp [postSupervisors]

@[simp] theorem State.postSupervisors_port (n : Notice) (m : Master) : (s.postSupervisors n).port m = s.port m := by
  simp [postSupervisors]

@[simp] theorem State.postSupervisors_win (n : Notice) (i : WindowNum) : (s.postSupervisors n).win i = s.win i := by
  simp [postSupervisors]

@[simp] theorem State.postSupervisors_poolFree (n : Notice) : (s.postSupervisors n).poolFree = s.poolFree := by
  simp [postSupervisors]

@[simp] theorem State.postSupervisors_log (n : Notice) : (s.postSupervisors n).log = s.log := by
  simp [postSupervisors]

@[simp] theorem State.postSupervisors_timeBase (n : Notice) : (s.postSupervisors n).timeBase = s.timeBase := by
  simp [postSupervisors]

end Sys2Proof.Machine
end

