-- ==== Sys2Proof/Laws/Work.lean ====
section
/-! SUPPORT. What each shared operation of the Object Table and the Master Table leaves alone: it is ObjectWork, and
an operation at one object leaves every other object's record as it stands. -/

namespace Sys2Proof.Machine

/-! ### ObjectWork and OnlyObject compose -/

theorem MasterRec.SameConduct.refl (r : MasterRec) : r.SameConduct r := ⟨rfl, rfl, rfl, rfl, rfl⟩

theorem MasterRec.SameConduct.trans {a b c : MasterRec} (h : a.SameConduct b) (k : b.SameConduct c) :
    a.SameConduct c :=
  ⟨k.1.trans h.1, k.2.1.trans h.2.1, k.2.2.1.trans h.2.2.1, k.2.2.2.1.trans h.2.2.2.1, k.2.2.2.2.trans h.2.2.2.2⟩

theorem MasterRec.sameConduct_post (r : MasterRec) (n : Notice) : r.SameConduct (r.post n) := by
  simp [SameConduct]

theorem State.ObjectWork.refl (s : State) : s.ObjectWork s :=
  ⟨rfl, rfl, rfl, rfl, rfl, rfl, rfl, rfl, rfl, rfl, fun _ => MasterRec.SameConduct.refl _⟩

theorem State.ObjectWork.trans {s t u : State} (h : s.ObjectWork t) (k : t.ObjectWork u) : s.ObjectWork u :=
  ⟨k.ports.trans h.ports, k.windows.trans h.windows, k.log.trans h.log, k.timeBase.trans h.timeBase,
    k.resetAsserted.trans h.resetAsserted, k.ack.trans h.ack, k.deny.trans h.deny, k.dataOut.trans h.dataOut,
    k.choices.trans h.choices, k.pending.trans h.pending, fun m => (h.conduct m).trans (k.conduct m)⟩

/-- A fold of work is work. -/
theorem State.ObjectWork.foldl {α : Type} {f : State → α → State} (h : ∀ (s : State) a, s.ObjectWork (f s a))
    (l : List α) (s : State) : s.ObjectWork (l.foldl f s) := by
  induction l generalizing s with
  | nil => exact refl s
  | cons a l ih => exact (h s a).trans (ih _)

theorem State.OnlyObject.refl (o : ObjNum) (s : State) : State.OnlyObject o s s := fun _ _ => rfl

theorem State.OnlyObject.trans {o : ObjNum} {s t u : State} (h : State.OnlyObject o s t)
    (k : State.OnlyObject o t u) : State.OnlyObject o s u := fun p hp => (k p hp).trans (h p hp)

theorem State.OnlyObject.foldl {α : Type} {o : ObjNum} {f : State → α → State}
    (h : ∀ s a, State.OnlyObject o s (f s a)) (l : List α) (s : State) : State.OnlyObject o s (l.foldl f s) := by
  induction l generalizing s with
  | nil => exact refl o s
  | cons a l ih => exact (h s a).trans (ih _)

/-! ### Single updates -/

theorem State.modObj_work (s : State) (o : ObjNum) (f : ObjectRec → ObjectRec) : s.ObjectWork (s.modObj o f) :=
  ⟨rfl, rfl, rfl, rfl, rfl, rfl, rfl, rfl, rfl, rfl, fun _ => MasterRec.SameConduct.refl _⟩

theorem State.modObj_only (s : State) (o : ObjNum) (f : ObjectRec → ObjectRec) :
    State.OnlyObject o s (s.modObj o f) := fun _ hp => State.modObj_obj_ne s hp f

theorem State.returnEntries_work (s : State) (n : Nat) : s.ObjectWork (s.returnEntries n) :=
  ⟨rfl, rfl, rfl, rfl, rfl, rfl, rfl, rfl, rfl, rfl, fun _ => MasterRec.SameConduct.refl _⟩

theorem State.takeEntry_work (s : State) : s.ObjectWork s.takeEntry :=
  ⟨rfl, rfl, rfl, rfl, rfl, rfl, rfl, rfl, rfl, rfl, fun _ => MasterRec.SameConduct.refl _⟩

theorem State.post_work (s : State) (m : Master) (n : Notice) : s.ObjectWork (s.post m n) :=
  ⟨rfl, rfl, rfl, rfl, rfl, rfl, rfl, rfl, rfl, rfl, fun k => by
    rw [State.post_mst]; split
    · subst k; exact MasterRec.sameConduct_post _ _
    · exact MasterRec.SameConduct.refl _⟩

theorem State.postEach_work (s : State) (l : List Master) (n : Notice) : s.ObjectWork (s.postEach l n) :=
  State.ObjectWork.foldl (fun s m => s.post_work m n) l s

theorem State.postEach_only (s : State) (o : ObjNum) (l : List Master) (n : Notice) :
    State.OnlyObject o s (s.postEach l n) := fun _ _ => by simp

theorem State.removeWaiter_work (s : State) (o : ObjNum) (m : Master) : s.ObjectWork (s.removeWaiter o m) :=
  (s.modObj_work o _).trans (State.returnEntries_work _ _)

theorem State.removeWaiter_only (s : State) (o : ObjNum) (m : Master) :
    State.OnlyObject o s (s.removeWaiter o m) := fun p hp => by simp [State.removeWaiter_obj, hp]

theorem State.dropWatch_work (s : State) (m : Master) (o : ObjNum) : s.ObjectWork (s.dropWatch m o) :=
  s.modObj_work o _

/-! ### Yields and handover -/

theorem askYield_work (o : ObjNum) (reason : YieldReason) (s : State) : s.ObjectWork (askYield o reason s) :=
  (s.modObj_work o _).trans (State.postEach_work _ _ _)

theorem askYield_only (o : ObjNum) (reason : YieldReason) (s : State) :
    State.OnlyObject o s (askYield o reason s) :=
  (s.modObj_only o _).trans (State.postEach_only _ o _ _)

/-- What asking a yield does to the object: the yield is pending with the allowance (R73). -/
theorem askYield_obj (o : ObjNum) (reason : YieldReason) (s : State) :
    (askYield o reason s).obj o =
      { s.obj o with
        yieldPending := some { remaining := (s.obj o).allowance, reason := reason }
        owed := { (s.obj o).owed with yield := false } } := by
  simp [askYield]

theorem contentionTest_work (o : ObjNum) (s : State) : s.ObjectWork (contentionTest o s) := by
  unfold contentionTest; split
  · exact askYield_work o _ s
  · exact .refl s

theorem contentionTest_only (o : ObjNum) (s : State) : State.OnlyObject o s (contentionTest o s) := by
  unfold contentionTest; split
  · exact askYield_only o _ s
  · exact .refl o s

/-- A contention test that fails changes nothing (R69). -/
theorem contentionTest_of_not {o : ObjNum} {s : State} (h : (s.obj o).contended = false) : contentionTest o s = s := by
  simp [contentionTest, h]

/-- The contention test changes at most the yield of the object: its state, holders, line, tenure and the rest stand. -/
theorem contentionTest_obj (o : ObjNum) (s : State) :
    (contentionTest o s).obj o =
      if (s.obj o).contended then
        { s.obj o with
          yieldPending := some { remaining := (s.obj o).allowance, reason := .contention }
          owed := { (s.obj o).owed with yield := false } }
      else s.obj o := by
  unfold contentionTest; split
  · rename_i h; rw [askYield_obj]
  · rfl

theorem contentionTest_poolFree (o : ObjNum) (s : State) : (contentionTest o s).poolFree = s.poolFree := by
  unfold contentionTest; split
  · simp [askYield]
  · rfl

theorem enterSettling_work (o : ObjNum) (s : State) : s.ObjectWork (enterSettling o s) := s.modObj_work o _

theorem enterSettling_only (o : ObjNum) (s : State) : State.OnlyObject o s (enterSettling o s) := s.modObj_only o _

theorem becomeFree_work (o : ObjNum) (s : State) : s.ObjectWork (becomeFree o s) :=
  (s.modObj_work o _).trans (State.postEach_work _ _ _)

theorem becomeFree_only (o : ObjNum) (s : State) : State.OnlyObject o s (becomeFree o s) :=
  (s.modObj_only o _).trans (State.postEach_only _ o _ _)

/-- What becoming FREE does to the object (R41). -/
theorem becomeFree_obj (o : ObjNum) (s : State) :
    (becomeFree o s).obj o = { s.obj o with state := .free, tenure := 0, watchers := 0 } := by
  simp [becomeFree]

theorem grantEntry_work (o : ObjNum) (s : State) (e : Entry) : s.ObjectWork (grantEntry o s e) :=
  ((s.returnEntries_work 1).trans (State.modObj_work _ o _)).trans (State.post_work _ _ _)

theorem grantEntry_only (o : ObjNum) (s : State) (e : Entry) : State.OnlyObject o s (grantEntry o s e) :=
  fun p hp => by simp [grantEntry, State.modObj_obj, hp]

/-- The granted entries and the remaining ones are the line (R42, R43). -/
theorem grantedEntries_append_remaining (line : List Entry) :
    grantedEntries line ++ remainingEntries line = line := by
  cases line with
  | nil => rfl
  | cons e rest =>
    simp only [grantedEntries, remainingEntries]
    split
    · rfl
    · exact List.takeWhile_append_dropWhile

/-- The granting of a list of entries: the grant count rises by one and one entry returns for each (R44). -/
theorem foldl_grantEntry_obj (o : ObjNum) (l : List Entry) (s : State) :
    (l.foldl (grantEntry o) s).obj o =
      { s.obj o with grantCount := (s.obj o).grantCount + BitVec.ofNat 16 l.length } := by
  induction l generalizing s with
  | nil => simp
  | cons e l ih =>
    rw [List.foldl_cons, ih]
    have : (s.returnEntries 1).obj o = s.obj o := rfl
    simp only [grantEntry, State.post_obj, State.modObj_obj_self, this, ObjectRec.countGrant, List.length_cons]
    congr 1
    rw [BitVec.add_assoc]
    congr 1
    apply BitVec.eq_of_toNat_eq
    simp [BitVec.toNat_ofNat, Nat.add_comm]

theorem foldl_grantEntry_poolFree (o : ObjNum) (l : List Entry) (s : State) :
    (l.foldl (grantEntry o) s).poolFree = s.poolFree + l.length := by
  induction l generalizing s with
  | nil => rfl
  | cons e l ih =>
    rw [List.foldl_cons, ih]
    simp [grantEntry]; omega

theorem grantFromLine_work (o : ObjNum) (s : State) : s.ObjectWork (grantFromLine o s) :=
  ((s.modObj_work o _).trans (State.ObjectWork.foldl (grantEntry_work o) _ _)).trans (contentionTest_work o _)

theorem grantFromLine_only (o : ObjNum) (s : State) : State.OnlyObject o s (grantFromLine o s) :=
  ((s.modObj_only o _).trans (State.OnlyObject.foldl (grantEntry_only o) _ _)).trans (contentionTest_only o _)

/-- The record of an object to which step 3 of a handover has granted its line's head or batch, before the
contention test (R42 to R44). -/
def ObjectRec.grantedFromLine (r : ObjectRec) : ObjectRec :=
  { r.endTenure with
    state := grantedState r.line
    holders := setOf ((grantedEntries r.line).map Entry.master)
    line := remainingEntries r.line
    grantCount := r.grantCount + BitVec.ofNat 16 (grantedEntries r.line).length }

/-- What step 3 of a handover does to the object (R42 to R45). -/
theorem grantFromLine_obj (o : ObjNum) (s : State) :
    (grantFromLine o s).obj o =
      if (s.obj o).grantedFromLine.contended then
        { (s.obj o).grantedFromLine with
          yieldPending := some { remaining := (s.obj o).allowance, reason := .contention }
          owed := Owed.none }
      else (s.obj o).grantedFromLine := by
  simp only [grantFromLine, contentionTest_obj, foldl_grantEntry_obj, State.modObj_obj_self]
  rfl

/-- Step 3 of a handover returns as many entries as it grants (R44). -/
theorem grantFromLine_poolFree (o : ObjNum) (s : State) :
    (grantFromLine o s).poolFree = s.poolFree + (grantedEntries (s.obj o).line).length := by
  simp [grantFromLine, contentionTest_poolFree, foldl_grantEntry_poolFree]

theorem handoverFromStep2_work (o : ObjNum) (s : State) : s.ObjectWork (handoverFromStep2 o s) := by
  unfold handoverFromStep2; split
  · exact becomeFree_work o s
  · exact grantFromLine_work o s

theorem handoverFromStep2_only (o : ObjNum) (s : State) : State.OnlyObject o s (handoverFromStep2 o s) := by
  unfold handoverFromStep2; split
  · exact becomeFree_only o s
  · exact grantFromLine_only o s

/-- Handover is work of the Object Table. -/
theorem handover_work (forced : Bool) (o : ObjNum) (s : State) : s.ObjectWork (handover forced o s) := by
  unfold handover; split
  · exact enterSettling_work o s
  · exact handoverFromStep2_work o s

/-- Handover changes the record of its own object alone. -/
theorem handover_only (forced : Bool) (o : ObjNum) (s : State) : State.OnlyObject o s (handover forced o s) := by
  unfold handover; split
  · exact enterSettling_only o s
  · exact handoverFromStep2_only o s

theorem afterRemoval_work (forced : Bool) (o : ObjNum) (s : State) : s.ObjectWork (afterRemoval forced o s) := by
  unfold afterRemoval; split
  · exact (s.modObj_work o _).trans (handover_work forced o _)
  · exact .refl s

theorem afterRemoval_only (forced : Bool) (o : ObjNum) (s : State) :
    State.OnlyObject o s (afterRemoval forced o s) := by
  unfold afterRemoval; split
  · exact (s.modObj_only o _).trans (handover_only forced o _)
  · exact .refl o s

theorem settleExpires_work (o : ObjNum) (s : State) : s.ObjectWork (settleExpires o s) :=
  (s.modObj_work o _).trans (handoverFromStep2_work o _)

theorem settleExpires_only (o : ObjNum) (s : State) : State.OnlyObject o s (settleExpires o s) :=
  (s.modObj_only o _).trans (handoverFromStep2_only o _)

theorem waitExpires_work (o : ObjNum) (m : Master) (s : State) : s.ObjectWork (waitExpires o m s) :=
  (s.removeWaiter_work o m).trans (State.post_work _ _ _)

theorem waitExpires_only (o : ObjNum) (m : Master) (s : State) : State.OnlyObject o s (waitExpires o m s) :=
  s.removeWaiter_only o m

theorem tenureEvent_work (o : ObjNum) (s : State) : s.ObjectWork (tenureEvent o s) := by
  have ceil : ∀ u : State, u.ObjectWork (ceilingTest o u) := fun u => by
    unfold ceilingTest; split
    · exact askYield_work o _ u
    · exact .refl u
  unfold tenureEvent
  refine State.ObjectWork.trans (s.modObj_work o ObjectRec.advanceOwed) ?_
  dsimp only
  split <;> split
  · exact (ceil _).trans (contentionTest_work o _)
  · exact contentionTest_work o _
  · exact ceil _
  · exact .refl _

theorem tenureEvent_only (o : ObjNum) (s : State) : State.OnlyObject o s (tenureEvent o s) := by
  have ceil : ∀ u : State, State.OnlyObject o u (ceilingTest o u) := fun u => by
    unfold ceilingTest; split
    · exact askYield_only o _ u
    · exact .refl o u
  unfold tenureEvent
  refine State.OnlyObject.trans (s.modObj_only o ObjectRec.advanceOwed) ?_
  dsimp only
  split <;> split
  · exact (ceil _).trans (contentionTest_only o _)
  · exact contentionTest_only o _
  · exact ceil _
  · exact .refl o _

/-! ### The cascade and the clearing -/

theorem dropWatches_work (m : Master) (s : State) : s.ObjectWork (dropWatches m s) :=
  State.ObjectWork.foldl (fun s o => s.dropWatch_work m o) _ s

theorem cascadeHold_work (m : Master) (s : State) (o : ObjNum) : s.ObjectWork (cascadeHold m s o) :=
  (((s.modObj_work o _).trans (State.post_work _ _ _)).trans (State.dropWatch_work _ _ _)).trans
    (afterRemoval_work true o _)

theorem cascadeWait_work (m : Master) (s : State) (o : ObjNum) : s.ObjectWork (cascadeWait m s o) :=
  (s.removeWaiter_work o m).trans (State.post_work _ _ _)

/-- The barring cascade is work of the Object Table: it charges no one (section 5.3). -/
theorem cascade_work (m : Master) (s : State) : s.ObjectWork (cascade m s) :=
  ((((s.post_work _ _).trans (State.postEach_work _ _ _)).trans
    (State.ObjectWork.foldl (cascadeHold_work m) _ _)).trans
    (State.ObjectWork.foldl (cascadeWait_work m) _ _)).trans (dropWatches_work m _)

theorem clearHold_work (m : Master) (s : State) (o : ObjNum) : s.ObjectWork (clearHold m s o) :=
  (s.modObj_work o _).trans (afterRemoval_work false o _)

theorem clearQueue_work (m : Master) (s : State) : s.ObjectWork (clearQueue m s) :=
  ⟨rfl, rfl, rfl, rfl, rfl, rfl, rfl, rfl, rfl, rfl, fun k => by
    rw [clearQueue, State.modMst_mst]; split
    · subst k; exact ⟨rfl, rfl, rfl, rfl, rfl⟩
    · exact MasterRec.SameConduct.refl _⟩

/-- The clearing of a master is work of the Object Table: it charges and credits no one (R106). -/
theorem clearing_work (m : Master) (s : State) : s.ObjectWork (clearing m s) :=
  (((dropWatches_work m s).trans (State.ObjectWork.foldl (clearHold_work m) _ _)).trans
    (State.ObjectWork.foldl (fun s o => s.removeWaiter_work o m) _ _)).trans (clearQueue_work m _)

end Sys2Proof.Machine
end

