-- ==== Sys2Proof/Laws/Handover.lean ====
section
/-! SUPPORT. All that handover from step 2 does, said once: the batch it grants, the record it leaves, the entries it
returns and what it posts to each master. -/

namespace Sys2Proof.Machine

/-! ### The batch -/

/-- What step 3 grants and what it leaves are the head or the batch, and the rest (R42, R43). -/
theorem batchOf_grantedEntries (line : List Entry) : BatchOf line (grantedEntries line) (remainingEntries line) where
  split := (grantedEntries_append_remaining line).symm
  exclusive e head mode := by
    cases line with
    | nil => simp at head
    | cons x xs =>
      obtain rfl : x = e := by simpa using head
      simp [grantedEntries, mode]
  shared e head mode := by
    cases line with
    | nil => simp at head
    | cons x xs =>
      obtain rfl : x = e := by simpa using head
      refine ⟨fun y hy => ?_, fun y hy => ?_⟩
      · simp only [grantedEntries, mode] at hy
        simpa using List.mem_takeWhile_imp hy
      · simp only [remainingEntries, mode] at hy
        have := List.head?_dropWhile_not (fun z : Entry => z.mode == .shared) (x :: xs)
        cases h : y.mode
        · rfl
        · simp_all

/-! ### What the contention test and the granting post -/

/-- Asking a yield posts YIELD_ASKED to every holder and to no other master (R73). -/
theorem askYield_mst (o : ObjNum) (reason : YieldReason) (s : State) (k : Master) :
    (askYield o reason s).mst k =
      if isMember (s.obj o).holders k then (s.mst k).post (.yieldAsked o reason (s.obj o).allowance) else s.mst k := by
  simp only [askYield, State.postEach_members_mst, State.modObj_mst]

/-- The contention test posts YIELD_ASKED to every holder just when it succeeds (R69, R73). -/
theorem contentionTest_mst (o : ObjNum) (s : State) (k : Master) :
    (contentionTest o s).mst k =
      if (s.obj o).contended && isMember (s.obj o).holders k then
        (s.mst k).post (.yieldAsked o .contention (s.obj o).allowance)
      else s.mst k := by
  unfold contentionTest
  by_cases h : (s.obj o).contended = true <;> simp [h, askYield_mst]

/-- The granting of a list of entries posts GRANTED to the master of each, in the list's order (R44). -/
theorem foldl_grantEntry_mst (o : ObjNum) (l : List Entry) (s : State) (k : Master) :
    (l.foldl (grantEntry o) s).mst k =
      (l.filter fun e => e.master = k).foldl (fun x e => x.post (.granted o e.mode e.tag)) (s.mst k) := by
  induction l generalizing s with
  | nil => rfl
  | cons e l ih =>
    rw [List.foldl_cons, ih]
    by_cases h : e.master = k
    · subst h; simp [grantEntry]
    · have : k ≠ e.master := fun c => h c.symm
      simp [grantEntry, h, State.post_mst_ne _ this]

/-! ### Handover from step 2 -/

/-- A line with an entry has a head that is granted (R42, R43). -/
theorem grantedEntries_cons (e : Entry) (rest : List Entry) : ∃ l, grantedEntries (e :: rest) = e :: l := by
  unfold grantedEntries
  cases m : e.mode <;> simp [m]

/-- A floor is reached by the tenure of 0 just when it is 0. -/
theorem floor_reached_at_zero (floor : BitVec 8) : decide (floor.setWidth 16 ≤ (0 : BitVec 16)) = (floor == 0) := by
  revert floor; decide +kernel

/-- Just after step 3 the contention test succeeds with contention yield on, an entry left and a floor of 0 (R45). -/
theorem ObjectRec.contended_grantedFromLine (r : ObjectRec) (h : r.line ≠ []) :
    r.grantedFromLine.contended = r.yieldsAtHandover (remainingEntries r.line) := by
  have held : r.grantedFromLine.isHeld = true := by
    cases line : r.line with
    | nil => exact absurd line h
    | cons e rest =>
      simp only [grantedFromLine, isHeld, grantedState, line]
      cases e.mode <;> rfl
  simp only [contended, held, yieldsAtHandover, ← floor_reached_at_zero]
  simp [grantedFromLine, endTenure]

/-- What step 3 posts (R44, R45). -/
theorem grantFromLine_mst (o : ObjNum) (s : State) (k : Master) :
    (grantFromLine o s).mst k =
      let granted := ((grantedEntries (s.obj o).line).filter fun e => e.master = k).foldl
        (fun x e => x.post (.granted o e.mode e.tag)) (s.mst k)
      if (s.obj o).grantedFromLine.contended && isMember (s.obj o).grantedFromLine.holders k then
        granted.post (.yieldAsked o .contention (s.obj o).allowance)
      else granted := by
  simp only [grantFromLine, contentionTest_mst, foldl_grantEntry_obj, foldl_grantEntry_mst, State.modObj_obj_self,
    State.modObj_mst]
  rfl

/-- Handover from step 2 of an object whose holder set has emptied (R41 to R46): the whole of its effect on the object,
the pool and the master records. `r` is any record that agrees with the object's but for the fields that a tenure's end
clears. -/
theorem handoverFromStep2_handedOver (o : ObjNum) (s : State) (r : ObjectRec)
    (h : s.obj o = { r with holders := 0, tenure := 0, yieldPending := none, owed := Owed.none }) :
    BatchOf r.line (grantedEntries r.line) (remainingEntries r.line) ∧
      (handoverFromStep2 o s).obj o = r.handedOver (grantedEntries r.line) (remainingEntries r.line) ∧
      (handoverFromStep2 o s).poolFree = s.poolFree + (grantedEntries r.line).length ∧
      ∀ k, (handoverFromStep2 o s).mst k =
        (s.mst k).handedOver o r (grantedEntries r.line) (remainingEntries r.line) k := by
  refine ⟨batchOf_grantedEntries r.line, ?_⟩
  have same : (s.obj o).line = r.line := by rw [h]
  cases line : r.line with
  | nil =>
    have empty : (s.obj o).line.isEmpty = true := by simp [same, line]
    simp only [handoverFromStep2, empty, if_true]
    refine ⟨?_, ?_, fun k => ?_⟩
    · rw [becomeFree_obj, h]; simp [ObjectRec.handedOver, grantedEntries, remainingEntries, line]
    · simp [becomeFree, grantedEntries]
    · simp [becomeFree, State.postEach_members_mst, MasterRec.handedOver, grantedEntries, h]
  | cons e rest =>
    have nonempty : (s.obj o).line.isEmpty = false := by simp [same, line]
    obtain ⟨l, granted⟩ := grantedEntries_cons e rest
    have yields : (s.obj o).grantedFromLine.contended = r.yieldsAtHandover (remainingEntries (e :: rest)) := by
      rw [ObjectRec.contended_grantedFromLine _ (by simp [same, line]), same, line, h]; rfl
    simp only [handoverFromStep2, nonempty, Bool.false_eq_true, if_false]
    refine ⟨?_, ?_, fun k => ?_⟩
    · rw [grantFromLine_obj, yields, granted]
      cases y : r.yieldsAtHandover (remainingEntries (e :: rest)) <;>
        simp [ObjectRec.handedOver, ObjectRec.grantedFromLine, ObjectRec.endTenure, h, line, granted, grantedState, y]
    · rw [grantFromLine_poolFree, same, line]
    · have holders : isMember (s.obj o).grantedFromLine.holders k = (e :: l).any fun e => e.master = k := by
        have : (s.obj o).grantedFromLine.holders = setOf ((e :: l).map Entry.master) := by
          simp only [ObjectRec.grantedFromLine, same, line, granted]
        rw [this, isMember_setOf, Bool.eq_iff_iff]; simp [eq_comm (a := k)]
      have allowance : (s.obj o).allowance = r.allowance := by rw [h]
      rw [grantFromLine_mst, yields, holders, same, line, granted, allowance]
      rfl

end Sys2Proof.Machine
end

