-- ==== Sys2Proof/Laws/Pool.lean ====
section
/-! SUPPORT. The account of the waiter pool: free entries and entries in lines together, operation by operation. -/

namespace Sys2Proof.Machine

/-- The free entries and the entries in lines, together (R47). -/
def State.poolSum (s : State) : Nat := s.poolFree + s.entriesInUse

/-- Changing one term of a sum over a list without repeats. -/
theorem sum_map_update {α : Type} [DecidableEq α] (g : α → Nat) (a : α) (n : Nat) :
    ∀ l : List α, l.Nodup → a ∈ l →
      (l.map fun x => if x = a then n else g x).sum + g a = (l.map g).sum + n
  | [], _, h => by simp at h
  | x :: xs, nodup, h => by
    simp only [List.nodup_cons] at nodup
    by_cases e : x = a
    · subst e
      have : (xs.map fun y => if y = x then n else g y) = xs.map g :=
        List.map_congr_left fun y hy => by
          have : y ≠ x := fun e => nodup.1 (e ▸ hy)
          simp [this]
      simp only [List.map_cons, List.sum_cons, if_true, this]
      omega
    · have mem : a ∈ xs := by
        rcases List.mem_cons.mp h with h | h
        · exact absurd h.symm e
        · exact h
      have := sum_map_update g a n xs nodup.2 mem
      simp only [List.map_cons, List.sum_cons, if_neg e]
      omega

/-- A change of one object's record changes the entries in use by its line's length. -/
theorem State.modObj_entriesInUse (s : State) (o : ObjNum) (f : ObjectRec → ObjectRec) :
    (s.modObj o f).entriesInUse + (s.obj o).line.length = s.entriesInUse + (f (s.obj o)).line.length := by
  have : (allObjects.map fun p => ((s.modObj o f).obj p).line.length) =
      allObjects.map fun p => if p = o then (f (s.obj o)).line.length else (s.obj p).line.length :=
    List.map_congr_left fun p _ => by rw [State.modObj_obj]; split <;> rfl
  unfold State.entriesInUse
  rw [this]
  exact sum_map_update (fun p => (s.obj p).line.length) o _ allObjects allObjects_nodup (mem_allObjects o)

/-- A change of a record that keeps the length of its line keeps the entries in use. -/
theorem State.modObj_entriesInUse_of_length (s : State) (o : ObjNum) {f : ObjectRec → ObjectRec}
    (h : (f (s.obj o)).line.length = (s.obj o).line.length) : (s.modObj o f).entriesInUse = s.entriesInUse := by
  have := s.modObj_entriesInUse o f; omega

/-- Two states with the same object records have the same entries in use. -/
theorem State.entriesInUse_congr {s t : State} (h : t.objects = s.objects) : t.entriesInUse = s.entriesInUse := by
  unfold entriesInUse State.obj; rw [h]

theorem State.poolSum_congr {s t : State} (h : t.objects = s.objects) (k : t.poolFree = s.poolFree) :
    t.poolSum = s.poolSum := by
  unfold poolSum; rw [entriesInUse_congr h, k]

theorem State.modObj_poolSum (s : State) (o : ObjNum) {f : ObjectRec → ObjectRec}
    (h : (f (s.obj o)).line.length = (s.obj o).line.length) : (s.modObj o f).poolSum = s.poolSum := by
  unfold poolSum; rw [s.modObj_entriesInUse_of_length o h]; rfl

@[simp] theorem State.post_poolSum (s : State) (m : Master) (n : Notice) : (s.post m n).poolSum = s.poolSum :=
  poolSum_congr rfl rfl

@[simp] theorem State.postEach_poolSum (s : State) (l : List Master) (n : Notice) :
    (s.postEach l n).poolSum = s.poolSum := poolSum_congr (by simp) (by simp)

/-- A removal from a line keeps the account: the entries taken from the line return to the pool (R62). -/
theorem State.removeWaiter_poolSum (s : State) (o : ObjNum) (m : Master) :
    (s.removeWaiter o m).poolSum = s.poolSum := by
  have h := s.modObj_entriesInUse o fun r => { r with line := r.line.filter fun e => e.master != m }
  have split_line := List.length_eq_countP_add_countP (fun e : Entry => e.master == m) (l := (s.obj o).line)
  have rest : ((s.obj o).line.filter fun e => e.master != m).length =
      (s.obj o).line.countP fun e => ¬ (e.master == m) := by
    rw [List.countP_eq_length_filter]; congr 2; funext e; cases h : (e.master == m) <;> simp_all [bne]
  have e : (s.removeWaiter o m).entriesInUse =
      (s.modObj o fun r => { r with line := r.line.filter fun e => e.master != m }).entriesInUse :=
    entriesInUse_congr rfl
  unfold poolSum
  rw [e, removeWaiter_poolFree]
  simp only at h
  omega

/-- Asking a yield keeps the account. -/
theorem askYield_poolSum (o : ObjNum) (reason : YieldReason) (s : State) : (askYield o reason s).poolSum = s.poolSum := by
  simp only [askYield, State.postEach_poolSum]
  exact s.modObj_poolSum o rfl

theorem contentionTest_poolSum (o : ObjNum) (s : State) : (contentionTest o s).poolSum = s.poolSum := by
  unfold contentionTest; split
  · exact askYield_poolSum o _ s
  · rfl

/-- Granting entries already taken from a line returns one for each (R44). -/
theorem foldl_grantEntry_poolSum (o : ObjNum) (l : List Entry) (s : State) :
    (l.foldl (grantEntry o) s).poolSum = s.poolSum + l.length := by
  induction l generalizing s with
  | nil => simp
  | cons e l ih =>
    rw [List.foldl_cons, ih, List.length_cons]
    have h : (grantEntry o s e).poolSum = s.poolSum + 1 := by
      have count : ((s.returnEntries 1).modObj o ObjectRec.countGrant).poolSum = (s.returnEntries 1).poolSum :=
        State.modObj_poolSum _ o rfl
      have one : (s.returnEntries 1).poolSum = s.poolSum + 1 := by
        have : (s.returnEntries 1).entriesInUse = s.entriesInUse := State.entriesInUse_congr rfl
        simp only [State.poolSum, this, State.returnEntries_poolFree]; omega
      simp only [grantEntry, State.post_poolSum, count, one]
    omega

/-- Step 3 of a handover keeps the account (R44). -/
theorem grantFromLine_poolSum (o : ObjNum) (s : State) : (grantFromLine o s).poolSum = s.poolSum := by
  simp only [grantFromLine, contentionTest_poolSum, foldl_grantEntry_poolSum]
  have h := s.modObj_entriesInUse o fun r =>
    { r.endTenure with
      state := grantedState (s.obj o).line
      holders := setOf ((grantedEntries (s.obj o).line).map Entry.master)
      line := remainingEntries (s.obj o).line }
  have lengths := congrArg List.length (grantedEntries_append_remaining (s.obj o).line)
  rw [List.length_append] at lengths
  simp only at h
  simp only [State.poolSum, State.modObj_poolFree]
  omega

/-- Handover keeps the account of the pool (R47). -/
theorem handover_poolSum (forced : Bool) (o : ObjNum) (s : State) : (handover forced o s).poolSum = s.poolSum := by
  unfold handover handoverFromStep2
  split
  · exact s.modObj_poolSum o rfl
  · split
    · simp only [becomeFree, State.postEach_poolSum]; exact s.modObj_poolSum o rfl
    · exact grantFromLine_poolSum o s

theorem afterRemoval_poolSum (forced : Bool) (o : ObjNum) (s : State) :
    (afterRemoval forced o s).poolSum = s.poolSum := by
  unfold afterRemoval; split
  · rw [handover_poolSum]; exact s.modObj_poolSum o rfl
  · rfl

/-- A fold of operations that keep the account keeps it. -/
theorem foldl_poolSum {α : Type} {f : State → α → State} (h : ∀ s a, (f s a).poolSum = s.poolSum) (l : List α)
    (s : State) : (l.foldl f s).poolSum = s.poolSum := by
  induction l generalizing s with
  | nil => rfl
  | cons a l ih => rw [List.foldl_cons, ih, h]

theorem dropWatches_poolSum (m : Master) (s : State) : (dropWatches m s).poolSum = s.poolSum :=
  foldl_poolSum (fun s o => s.modObj_poolSum o rfl) _ s

/-- The barring cascade keeps the account of the pool (R64). -/
theorem cascade_poolSum (m : Master) (s : State) : (cascade m s).poolSum = s.poolSum := by
  have hold : ∀ (s : State) (o : ObjNum), (cascadeHold m s o).poolSum = s.poolSum := fun s o => by
    unfold cascadeHold
    rw [afterRemoval_poolSum, State.dropWatch, State.modObj_poolSum _ o (by rfl), State.post_poolSum]
    exact s.modObj_poolSum o rfl
  have wait : ∀ (s : State) (o : ObjNum), (cascadeWait m s o).poolSum = s.poolSum := fun s o => by
    simp only [cascadeWait, State.post_poolSum, State.removeWaiter_poolSum]
  simp only [cascade, dropWatches_poolSum, foldl_poolSum wait, foldl_poolSum hold, cascadeNotices,
    State.postSupervisors, State.postEach_poolSum, State.post_poolSum]

/-- The clearing of a master keeps the account of the pool (R65). -/
theorem clearing_poolSum (m : Master) (s : State) : (clearing m s).poolSum = s.poolSum := by
  have hold : ∀ (s : State) (o : ObjNum), (clearHold m s o).poolSum = s.poolSum := fun s o => by
    unfold clearHold; rw [afterRemoval_poolSum]; exact s.modObj_poolSum o rfl
  have wait : ∀ (s : State) (o : ObjNum), (clearWait m s o).poolSum = s.poolSum := fun s o =>
    s.removeWaiter_poolSum o m
  have queue : ∀ s : State, (clearQueue m s).poolSum = s.poolSum := fun s => State.poolSum_congr rfl rfl
  simp only [clearing, queue, foldl_poolSum wait, foldl_poolSum hold, dropWatches_poolSum]

/-- A change of score, with the cascade it may start, keeps the account of the pool. -/
theorem changeScore_poolSum (m : Master) (score : BitVec 8) (s : State) :
    (changeScore m score s).poolSum = s.poolSum := by
  have base : ∀ f, (s.modMst m f).poolSum = s.poolSum := fun f => State.poolSum_congr rfl rfl
  unfold changeScore
  dsimp only
  split
  · exact base _
  · split
    · rw [cascade_poolSum]; exact base _
    · rw [State.post_poolSum]; exact base _

end Sys2Proof.Machine
end

