-- ==== Sys2Proof/Laws/Cascade.lean ====
section
/-! SUPPORT. All that the removal of a holder, the barring cascade and the clearing of a master do, said once: the
records they leave and what they post to each master. -/

namespace Sys2Proof.Machine

/-! ### Work at one object after another -/

/-- A piece of work at one object: it changes that object's record by `g` and each master's by `h`, both read from the
object's record, and no other object's. -/
structure ObjectStep (f : State → ObjNum → State) (g : ObjectRec → ObjectRec)
    (h : ObjNum → ObjectRec → Master → MasterRec → MasterRec) : Prop where
  only : ∀ s o, State.OnlyObject o s (f s o)
  obj : ∀ s o, (f s o).obj o = g (s.obj o)
  mst : ∀ s o k, (f s o).mst k = h o (s.obj o) k (s.mst k)

/-- Such work at a list of objects without repeats, one after another: each object is worked on as it stood before the
first, and each master's record takes the changes in turn. -/
theorem ObjectStep.foldl {f : State → ObjNum → State} {g : ObjectRec → ObjectRec}
    {h : ObjNum → ObjectRec → Master → MasterRec → MasterRec} (w : ObjectStep f g h) {l : List ObjNum}
    (nodup : l.Nodup) (s : State) :
    (∀ o, (l.foldl f s).obj o = if o ∈ l then g (s.obj o) else s.obj o) ∧
      ∀ k, (l.foldl f s).mst k = l.foldl (fun x o => h o (s.obj o) k x) (s.mst k) := by
  induction l generalizing s with
  | nil => exact ⟨fun _ => by simp, fun _ => rfl⟩
  | cons a l ih =>
    simp only [List.nodup_cons] at nodup
    obtain ⟨obj, mst⟩ := ih nodup.2 (f s a)
    refine ⟨fun o => ?_, fun k => ?_⟩
    · rw [List.foldl_cons, obj]
      by_cases e : o = a
      · subst e; simp [nodup.1, w.obj]
      · simp [e, w.only s a o e]
    · rw [List.foldl_cons, mst, List.foldl_cons, w.mst]
      refine List.foldl_ext _ _ _ fun x o ho => ?_
      rw [w.only s a o fun e => nodup.1 (e ▸ ho)]

/-- A fold that changes nothing. -/
theorem foldl_same {α β : Type} (l : List α) (x : β) : l.foldl (fun x _ => x) x = x := by
  induction l with
  | nil => rfl
  | cons _ _ ih => exact ih

/-! ### The removal of a holder -/

/-- A set without a master that is no member is the set. -/
theorem removeMember_of_not_member {ms : MasterSet} {m : Master} (h : isMember ms m = false) : removeMember ms m = ms :=
  masterSet_ext fun k => by
    rw [isMember_removeMember]
    by_cases e : k = m
    · subst e; simp [h]
    · simp [e]

@[simp] theorem isMember_removeMember_self (ms : MasterSet) (m : Master) : isMember (removeMember ms m) m = false := by
  simp [isMember_removeMember]

/-- The record that the removal of a holder leaves, once the holder is out of the set (R35, R36, R40 to R45, R96, R106):
with others left it stands; else it enters SETTLING after a forced emptying with settle non-zero, or is handed over. -/
def ObjectRec.afterRemoval (r : ObjectRec) (forced : Bool) : ObjectRec :=
  if r.holders == 0 then
    if forced && r.settle != 0 then
      { r with
        state := .settling, tenure := 0, yieldPending := none, settleRemaining := some r.settle, owed := Owed.none }
    else r.handedOver (grantedEntries r.line) (remainingEntries r.line)
  else r

/-- What it posts to master `k`: the records of the handover, if there is one. -/
def MasterRec.afterRemoval (x : MasterRec) (o : ObjNum) (r : ObjectRec) (forced : Bool) (k : Master) : MasterRec :=
  if r.holders == 0 && !(forced && r.settle != 0) then
    x.handedOver o r (grantedEntries r.line) (remainingEntries r.line) k
  else x

theorem afterRemoval_obj_mst (forced : Bool) (o : ObjNum) (s : State) :
    (afterRemoval forced o s).obj o = (s.obj o).afterRemoval forced ∧
      ∀ k, (afterRemoval forced o s).mst k = (s.mst k).afterRemoval o (s.obj o) forced k := by
  unfold Sys2Proof.Machine.afterRemoval ObjectRec.afterRemoval MasterRec.afterRemoval
  by_cases empty : ((s.obj o).holders == 0) = true
  · simp only [empty, if_true, Bool.true_and]
    have holders : (s.obj o).holders = 0 := by simpa using empty
    unfold handover
    simp only [State.modObj_obj_self, ObjectRec.endTenure]
    by_cases settles : (forced && (s.obj o).settle != 0) = true
    · simp only [settles, if_true, Bool.not_true, Bool.false_eq_true, if_false, enterSettling, State.modObj_obj_self,
        State.modObj_mst]
      exact ⟨rfl, fun _ => trivial⟩
    · have other : (forced && (s.obj o).settle != 0) = false := by simpa using settles
      have := handoverFromStep2_handedOver o (s.modObj o ObjectRec.endTenure) (s.obj o)
        (by rw [State.modObj_obj_self]; conv_rhs => rw [← holders]
            rfl)
      simp only [other, Bool.false_eq_true, if_false, Bool.not_false, if_true]
      exact ⟨this.2.1, this.2.2.2⟩
  · have other : ((s.obj o).holders == 0) = false := by simpa using empty
    simp only [other, Bool.false_eq_true, if_false, Bool.false_and, true_and]
    exact fun _ => trivial

/-- A removal's record has no entry that was not in the line. -/
theorem ObjectRec.mem_afterRemoval_line {r : ObjectRec} {forced : Bool} {e : Entry}
    (h : e ∈ (r.afterRemoval forced).line) : e ∈ r.line := by
  unfold afterRemoval at h
  split at h
  · split at h
    · exact h
    · have : (r.handedOver (grantedEntries r.line) (remainingEntries r.line)).line = remainingEntries r.line := by
        unfold handedOver; split <;> rfl
      rw [this] at h
      rw [← grantedEntries_append_remaining r.line]
      exact List.mem_append_right _ h
  · exact h

/-- A removal's record has no watcher that was none. -/
theorem ObjectRec.afterRemoval_not_watcher {r : ObjectRec} {forced : Bool} {m : Master}
    (h : isMember r.watchers m = false) : isMember (r.afterRemoval forced).watchers m = false := by
  unfold afterRemoval handedOver
  split
  · split
    · exact h
    · split
      · exact isMember_zero m
      · exact h
  · exact h

/-- A handover posts nothing to a master that watches no more and is granted nothing. -/
theorem MasterRec.handedOver_of_stranger {x : MasterRec} {o : ObjNum} {r : ObjectRec} {batch left : List Entry}
    {k : Master} (watches : isMember r.watchers k = false) (waits : ∀ e ∈ batch, e.master ≠ k) :
    x.handedOver o r batch left k = x := by
  unfold handedOver
  split
  · simp [watches]
  · rename_i e rest
    have none_of : (e :: rest).filter (fun e => decide (e.master = k)) = [] := by
      rw [List.filter_eq_nil_iff]; intro y hy; simpa using waits y hy
    have no_any : ((e :: rest).any fun e => decide (e.master = k)) = false := by
      rw [List.any_eq_false]; intro y hy; simpa using waits y hy
    simp only [none_of, no_any, List.foldl_nil, Bool.and_false, Bool.false_eq_true, if_false]

theorem MasterRec.afterRemoval_of_stranger {x : MasterRec} {o : ObjNum} {r : ObjectRec} {forced : Bool} {k : Master}
    (watches : isMember r.watchers k = false) (waits : ∀ e ∈ r.line, e.master ≠ k) :
    x.afterRemoval o r forced k = x := by
  unfold afterRemoval
  split
  · refine handedOver_of_stranger watches fun e he => waits e ?_
    rw [← grantedEntries_append_remaining r.line]
    exact List.mem_append_left _ he
  · rfl

/-! ### The removal from every object -/

/-- Every entry of `m` taken out of the line. -/
def ObjectRec.dropWait (r : ObjectRec) (m : Master) : ObjectRec :=
  { r with line := r.line.filter fun e => e.master ≠ m }

/-- What a removal from a line does to the object (R62). -/
theorem State.removeWaiter_dropWait (s : State) (o : ObjNum) (m : Master) :
    (s.removeWaiter o m).obj o = (s.obj o).dropWait m := by
  have same : (fun e : Entry => e.master != m) = fun e => decide (e.master ≠ m) := by
    funext e; by_cases h : e.master = m <;> simp [h]
  rw [State.removeWaiter_obj, if_pos rfl, ObjectRec.dropWait, ← same]

/-- A line without an entry of `m` is unchanged by taking them out. -/
theorem ObjectRec.dropWait_of_no_entry {r : ObjectRec} {m : Master} (h : ∀ e ∈ r.line, e.master ≠ m) :
    r.dropWait m = r := by
  have : (r.line.filter fun e => decide (e.master ≠ m)) = r.line := by
    rw [List.filter_eq_self]; intro e he; simpa using h e he
  simp only [dropWait, this]

/-- A record that has neither entry nor watch of `m` is unchanged by taking them out. -/
theorem ObjectRec.without_rest {r : ObjectRec} {m : Master} (waits : ∀ e ∈ r.line, e.master ≠ m)
    (watches : isMember r.watchers m = false) :
    { r.dropWait m with watchers := removeMember (r.dropWait m).watchers m } = r := by
  rw [dropWait_of_no_entry waits, removeMember_of_not_member watches]

/-- With the holder removed, each object that was held is as the removal leaves it: `WithoutMaster`. -/
theorem State.withoutMaster_of_removals {n : Master} {forced : Bool} {s t : State}
    (held : ∀ o, isMember (s.obj o).holders n = true → t.obj o = ((s.obj o).without n).afterRemoval forced)
    (notHeld : ∀ o, isMember (s.obj o).holders n = false →
      t.obj o = { (s.obj o).without n with line := (s.obj o).line.filter fun e => e.master ≠ n })
    (pool : t.poolSum = s.poolSum) :
    s.WithoutMaster n forced t (fun o => grantedEntries (s.obj o).line) (fun o => remainingEntries (s.obj o).line) where
  heldWithOthers o member shared := by
    rw [held o member]
    have : (removeMember (s.obj o).holders n == 0) = false := by
      simpa [ObjectRec.heldAloneBy, member] using shared
    simp only [ObjectRec.afterRemoval, ObjectRec.without, this, Bool.false_eq_true, if_false]
  settles o alone keeps := by
    simp only [ObjectRec.heldAloneBy, Bool.and_eq_true] at alone
    have forces : (forced && (s.obj o).settle != 0) = true := by
      simp only [ObjectRec.handsOverWithout, ObjectRec.heldAloneBy, alone.1, alone.2, Bool.and_self, Bool.true_and,
        Bool.or_eq_false_iff] at keeps
      have := keeps.1
      cases forced <;> simp_all [bne]
    rw [held o alone.1]
    simp only [ObjectRec.afterRemoval, ObjectRec.without, alone.2, forces, if_true]
  handsOver o goesOn := by
    simp only [ObjectRec.handsOverWithout, ObjectRec.heldAloneBy, Bool.and_eq_true] at goesOn
    have lets : (forced && (s.obj o).settle != 0) = false := by
      have := goesOn.2
      cases forced <;> simp_all
    refine ⟨batchOf_grantedEntries _, ?_⟩
    rw [held o goesOn.1.1]
    simp only [ObjectRec.afterRemoval, ObjectRec.without, goesOn.1.2, lets, if_true, Bool.false_eq_true, if_false]
  notHeld := notHeld
  pool := pool

/-- The records of the removals at the objects held are those of the handovers among them. -/
theorem MasterRec.handoversWithout_eq (x : MasterRec) (n : Master) (forced : Bool) (s : State) (k : Master) :
    (s.heldBy n).foldl (fun x o => x.afterRemoval o ((s.obj o).without n) forced k) x =
      x.handoversWithout n forced s (fun o => grantedEntries (s.obj o).line) (fun o => remainingEntries (s.obj o).line)
        k := by
  unfold State.heldBy handoversWithout
  rw [List.foldl_filter, List.foldl_filter]
  congr 1
  funext y o
  unfold afterRemoval ObjectRec.handsOverWithout ObjectRec.heldAloneBy ObjectRec.without
  cases isMember (s.obj o).holders n <;> cases removeMember (s.obj o).holders n == 0 <;> cases forced <;>
    cases h : (s.obj o).settle == 0 <;> simp_all

theorem State.heldBy_nodup (s : State) (m : Master) : (s.heldBy m).Nodup := allObjects_nodup.filter _

theorem State.waitedOnBy_nodup (s : State) (m : Master) : (s.waitedOnBy m).Nodup := allObjects_nodup.filter _

@[simp] theorem State.mem_heldBy (s : State) (m : Master) (o : ObjNum) :
    o ∈ s.heldBy m ↔ isMember (s.obj o).holders m = true := by simp [heldBy]

@[simp] theorem State.mem_waitedOnBy (s : State) (m : Master) (o : ObjNum) :
    o ∈ s.waitedOnBy m ↔ s.isWaiting m o = true := by simp [waitedOnBy]

/-- The objects held are read from the object records alone. -/
theorem State.heldBy_congr {s t : State} (h : ∀ o, t.obj o = s.obj o) (m : Master) : t.heldBy m = s.heldBy m := by
  simp only [heldBy, h]

/-- A master that does not wait has no entry to take out. -/
theorem ObjectRec.dropWait_of_not_waiting {s : State} {m : Master} {o : ObjNum} (h : s.isWaiting m o = false) :
    (s.obj o).dropWait m = s.obj o :=
  dropWait_of_no_entry fun e he => by simpa using List.any_eq_false.mp h e he

/-- The watch of `m` taken out of every object. -/
theorem dropWatches_obj_mst (m : Master) (s : State) :
    (∀ o, (dropWatches m s).obj o = { s.obj o with watchers := removeMember (s.obj o).watchers m }) ∧
      ∀ k, (dropWatches m s).mst k = s.mst k := by
  have step : ObjectStep (fun s o => s.dropWatch m o) (fun r => { r with watchers := removeMember r.watchers m })
      (fun _ _ _ x => x) :=
    { only := fun s o => s.modObj_only o _
      obj := fun s o => by simp [State.dropWatch]
      mst := fun s o k => rfl }
  obtain ⟨obj, mst⟩ := step.foldl allObjects_nodup s
  refine ⟨fun o => by rw [dropWatches, obj]; simp, fun k => ?_⟩
  rw [dropWatches, mst, foldl_same]

/-- The entries of `m` taken out of every line in which it stands, with a record for each: `post`. -/
theorem foldl_removeWaiter {m : Master} {f : State → ObjNum → State}
    {h : ObjNum → ObjectRec → Master → MasterRec → MasterRec}
    (step : ObjectStep f (fun r => r.dropWait m) h) (s : State) :
    (∀ o, ((s.waitedOnBy m).foldl f s).obj o = (s.obj o).dropWait m) ∧
      ∀ k, ((s.waitedOnBy m).foldl f s).mst k = (s.waitedOnBy m).foldl (fun x o => h o (s.obj o) k x) (s.mst k) := by
  obtain ⟨obj, mst⟩ := step.foldl (s.waitedOnBy_nodup m) s
  refine ⟨fun o => ?_, mst⟩
  rw [obj]
  split
  · rfl
  · rename_i waits
    rw [ObjectRec.dropWait_of_not_waiting (by simpa using waits)]

/-- A master that holds waits on none of the objects it holds, so its removal from them leaves the lines it stands in
the same. -/
theorem State.waitedOnBy_of_removals {n : Master} {s t : State} (apart : s.NoHolderWaits)
    (held : ∀ o, isMember (s.obj o).holders n = true → ∀ e ∈ (t.obj o).line, e ∈ (s.obj o).line)
    (notHeld : ∀ o, isMember (s.obj o).holders n = false → (t.obj o).line = (s.obj o).line) :
    t.waitedOnBy n = s.waitedOnBy n := by
  unfold waitedOnBy
  refine List.filter_congr fun o _ => ?_
  unfold isWaiting
  cases member : isMember (s.obj o).holders n with
  | false => rw [notHeld o member]
  | true =>
    have none_in : ∀ e ∈ (s.obj o).line, e.master ≠ n := fun e he c => by
      have := apart o e he; rw [c, member] at this; cases this
    rw [List.any_eq_false.mpr fun e he => by simpa using none_in e (held o member e he),
      List.any_eq_false.mpr fun e he => by simpa using none_in e he]

/-! ### The barring cascade -/

/-- The record at the end of step 1 of that stage: the master is out of the holder set and the watch set. -/
theorem cascadeHold_ready_obj (m : Master) (s : State) (o : ObjNum) :
    (((s.modObj o fun r => r.dropHolder m).post m (.revoked o .barred)).dropWatch m o).obj o = (s.obj o).without m := by
  simp [State.dropWatch, ObjectRec.dropHolder, ObjectRec.without]

/-- The second stage of the cascade at one object (R96). -/
theorem cascadeHold_step (m : Master) :
    ObjectStep (cascadeHold m) (fun r => (r.without m).afterRemoval true) (fun o r k x =>
      (if k = m then x.post (.revoked o .barred) else x).afterRemoval o (r.without m) true k) where
  only s o := ((((s.modObj_only o _).trans (State.postEach_only _ o [m] _))).trans (State.modObj_only _ o _)).trans
    (afterRemoval_only true o _)
  obj s o := by
    rw [cascadeHold, (afterRemoval_obj_mst true o _).1, cascadeHold_ready_obj]
  mst s o k := by
    rw [cascadeHold, (afterRemoval_obj_mst true o _).2, cascadeHold_ready_obj, State.dropWatch_mst, State.post_mst]
    by_cases e : k = m
    · subst e; rfl
    · simp [e]

/-- The third stage of the cascade at one object (R97). -/
theorem cascadeWait_step (m : Master) :
    ObjectStep (cascadeWait m) (fun r => r.dropWait m)
      (fun o _ k x => if k = m then x.post (.waitEnded o .barred) else x) where
  only s o := s.removeWaiter_only o m
  obj s o := (s.removeWaiter_dropWait o m)
  mst s o k := by
    rw [cascadeWait, State.post_mst]; split
    · subst k; rfl
    · rfl

/-- The barring cascade, all of it (R95 to R97). -/
theorem cascade_cutOff (m : Master) (s : State) (apart : s.NoHolderWaits) :
    s.CutOff m s.mst (cascade m s) (fun o => grantedEntries (s.obj o).line)
      (fun o => remainingEntries (s.obj o).line) := by
  have notices_obj : ∀ o, (cascadeNotices m s).obj o = s.obj o := fun o => by simp [cascadeNotices]
  have notices_mst : ∀ k, (cascadeNotices m s).mst k =
      let told := if k = m then (s.mst k).post (.standing .barred (s.mst k).score) else s.mst k
      if (s.mst k).supervisor then told.post (.faultBarred m) else told := fun k => by
    simp only [cascadeNotices, State.postSupervisors_mst, State.post_mst]
    by_cases e : k = m
    · subst e; simp
    · simp [e]
  obtain ⟨hold_obj, hold_mst⟩ :=
    (cascadeHold_step m).foldl ((cascadeNotices m s).heldBy_nodup m) (cascadeNotices m s)
  rw [State.heldBy_congr notices_obj] at hold_obj hold_mst
  simp only [notices_obj, State.mem_heldBy] at hold_obj hold_mst
  generalize held : (s.heldBy m).foldl (cascadeHold m) (cascadeNotices m s) = u at hold_obj hold_mst
  obtain ⟨wait_obj, wait_mst⟩ := foldl_removeWaiter (cascadeWait_step m) u
  obtain ⟨drop_obj, drop_mst⟩ := dropWatches_obj_mst m ((u.waitedOnBy m).foldl (cascadeWait m) u)
  have last : cascade m s = dropWatches m ((u.waitedOnBy m).foldl (cascadeWait m) u) := by
    simp only [cascade, State.heldBy_congr notices_obj, held]
  have strangers : ∀ o, isMember (s.obj o).holders m = true → ∀ e ∈ (s.obj o).line, e.master ≠ m :=
    fun o member e he c => by have := apart o e he; rw [c, member] at this; cases this
  have waited : u.waitedOnBy m = s.waitedOnBy m :=
    State.waitedOnBy_of_removals apart
      (fun o member e he => by
        rw [hold_obj, if_pos member] at he; exact ObjectRec.mem_afterRemoval_line (r := (s.obj o).without m) he)
      fun o other => by rw [hold_obj, if_neg (by simp [other])]
  have unwatched : ∀ o, isMember ((s.obj o).without m).watchers m = false := fun o => by simp [ObjectRec.without]
  rw [last]
  refine ⟨State.withoutMaster_of_removals (fun o member => ?_) (fun o other => ?_) ?_, ?_, fun k ne => ?_⟩
  · rw [drop_obj, wait_obj, hold_obj, if_pos member]
    exact ObjectRec.without_rest (fun e he => strangers o member e (ObjectRec.mem_afterRemoval_line (r := (s.obj o).without m) he))
      (ObjectRec.afterRemoval_not_watcher (unwatched o))
  · rw [drop_obj, wait_obj, hold_obj, if_neg (by simp [other])]
    simp [ObjectRec.dropWait, ObjectRec.without, removeMember_of_not_member other]
  · rw [← last]; exact cascade_poolSum m s
  · rw [drop_mst, wait_mst, waited, hold_mst, notices_mst]
    simp only [if_true]
    congr 1
    refine List.foldl_ext _ _ _ fun x o ho => ?_
    exact MasterRec.afterRemoval_of_stranger (unwatched o) (strangers o (by simpa using ho))
  · rw [drop_mst, wait_mst, hold_mst, notices_mst]
    simp only [ne, if_false]
    rw [foldl_same]
    exact MasterRec.handoversWithout_eq _ m true s k

/-! ### The clearing of a master -/

/-- The second stage of a clearing at one object (R106). -/
theorem clearHold_step (m : Master) :
    ObjectStep (clearHold m) (fun r => (r.dropHolder m).afterRemoval false) (fun o r k x =>
      x.afterRemoval o (r.dropHolder m) false k) where
  only s o := (s.modObj_only o _).trans (afterRemoval_only false o _)
  obj s o := by rw [clearHold, (afterRemoval_obj_mst false o _).1, State.modObj_obj_self]
  mst s o k := by rw [clearHold, (afterRemoval_obj_mst false o _).2, State.modObj_obj_self]; rfl

/-- The third stage of a clearing at one object (R106). -/
theorem clearWait_step (m : Master) :
    ObjectStep (clearWait m) (fun r => r.dropWait m) (fun _ _ _ x => x) where
  only s o := s.removeWaiter_only o m
  obj s o := s.removeWaiter_dropWait o m
  mst _ _ _ := rfl

/-- The clearing of a master, all of it (R106): what is left of the other masters and of every object, and the record
of the master itself. -/
theorem clearing_cleared (m : Master) (s : State) (apart : s.NoHolderWaits) :
    s.Cleared m (clearing m s) (fun o => grantedEntries (s.obj o).line) (fun o => remainingEntries (s.obj o).line) ∧
      (clearing m s).mst m = { s.mst m with queue := [], overflow := false } := by
  obtain ⟨drop_obj, drop_mst⟩ := dropWatches_obj_mst m s
  have sameHeld : (dropWatches m s).heldBy m = s.heldBy m := by simp only [State.heldBy, drop_obj]
  obtain ⟨hold_obj, hold_mst⟩ := (clearHold_step m).foldl ((dropWatches m s).heldBy_nodup m) (dropWatches m s)
  have without : ∀ o, ((dropWatches m s).obj o).dropHolder m = (s.obj o).without m := fun o => by rw [drop_obj]; rfl
  simp only [without, sameHeld, drop_mst] at hold_obj hold_mst
  generalize held : (s.heldBy m).foldl (clearHold m) (dropWatches m s) = u at hold_obj hold_mst
  obtain ⟨wait_obj, wait_mst⟩ := foldl_removeWaiter (clearWait_step m) u
  have last : clearing m s = clearQueue m ((u.waitedOnBy m).foldl (clearWait m) u) := by
    simp only [clearing, sameHeld, held]
  have last_obj : ∀ o, (clearing m s).obj o = (u.obj o).dropWait m := fun o => by rw [last, ← wait_obj]; rfl
  have strangers : ∀ o, isMember (s.obj o).holders m = true → ∀ e ∈ (s.obj o).line, e.master ≠ m :=
    fun o member e he c => by have := apart o e he; rw [c, member] at this; cases this
  have unwatched : ∀ o, isMember ((s.obj o).without m).watchers m = false := fun o => by simp [ObjectRec.without]
  refine ⟨⟨State.withoutMaster_of_removals (fun o member => ?_) (fun o other => ?_) (clearing_poolSum m s),
    fun k ne => ?_⟩, ?_⟩
  · rw [last_obj, hold_obj, if_pos (by simpa using member)]
    exact ObjectRec.dropWait_of_no_entry fun e he =>
      strangers o member e (ObjectRec.mem_afterRemoval_line (r := (s.obj o).without m) he)
  · rw [last_obj, hold_obj, if_neg (by simp [other]), drop_obj]
    simp [ObjectRec.dropWait, ObjectRec.without, removeMember_of_not_member other]
  · rw [last, clearQueue, State.modMst_mst, if_neg ne, wait_mst, foldl_same, hold_mst]
    exact MasterRec.handoversWithout_eq _ m false s k
  · have own : u.mst m = s.mst m := by
      rw [hold_mst]
      refine (List.foldl_ext _ (fun x _ => x) _ fun x o ho => ?_).trans (foldl_same _ _)
      exact MasterRec.afterRemoval_of_stranger (unwatched o) (strangers o (by simpa using ho))
    rw [last, clearQueue, State.modMst_mst, if_pos rfl, wait_mst, foldl_same, own]

/-! ### After the removal -/

/-- After its removal a master holds nothing, waits on nothing and watches nothing (R97, R106). -/
theorem State.WithoutMaster.holdsNothing {n : Master} {forced : Bool} {s t : State} {batch left : ObjNum → List Entry}
    (w : s.WithoutMaster n forced t batch left) (apart : s.NoHolderWaits) : t.HoldsNothing n := by
  have unwaiting : ∀ o, (∀ e ∈ (t.obj o).line, e.master ≠ n) → t.isWaiting n o = false := fun o h => by
    unfold State.isWaiting; rw [List.any_eq_false]; intro e he; simpa using h e he
  intro o
  cases member : isMember (s.obj o).holders n with
  | false =>
    have obj := w.notHeld o member
    refine ⟨by simp [obj, ObjectRec.without], unwaiting o ?_, by simp [obj, ObjectRec.without]⟩
    intro e he
    rw [obj] at he
    simpa using (List.mem_filter.mp he).2
  | true =>
    have strangers : ∀ e ∈ (s.obj o).line, e.master ≠ n := fun e he c => by
      have := apart o e he; rw [c, member] at this; cases this
    cases alone : (s.obj o).heldAloneBy n with
    | false =>
      have obj := w.heldWithOthers o member alone
      exact ⟨by simp [obj, ObjectRec.without], unwaiting o (by rw [obj]; exact strangers),
        by simp [obj, ObjectRec.without]⟩
    | true =>
      cases goesOn : (s.obj o).handsOverWithout n forced with
      | false =>
        have obj := w.settles o alone goesOn
        exact ⟨by simp [obj, ObjectRec.without], unwaiting o (by rw [obj]; exact strangers),
          by simp [obj, ObjectRec.without]⟩
      | true =>
        obtain ⟨split, obj⟩ := w.handsOver o goesOn
        have inBatch : ∀ e ∈ batch o, e.master ≠ n := fun e he =>
          strangers e (by rw [split.split]; exact List.mem_append_left _ he)
        have inLeft : ∀ e ∈ left o, e.master ≠ n := fun e he =>
          strangers e (by rw [split.split]; exact List.mem_append_right _ he)
        unfold ObjectRec.handedOver at obj
        cases batches : batch o with
        | nil =>
          rw [batches] at obj
          exact ⟨by simp [obj], unwaiting o (by rw [obj]; exact inLeft), by simp [obj]⟩
        | cons e rest =>
          rw [batches] at obj inBatch
          refine ⟨?_, unwaiting o (by rw [obj]; exact inLeft), by simp [obj, ObjectRec.without]⟩
          rw [obj, isMember_setOf]
          simp only [decide_eq_false_iff_not, List.mem_map, not_exists, not_and]
          exact inBatch

/-- A removal leaves no holder that waits and no master that waits twice, where there was none (R4). -/
theorem State.WithoutMaster.keeps {n : Master} {forced : Bool} {s t : State} {batch left : ObjNum → List Entry}
    (w : s.WithoutMaster n forced t batch left) (apart : s.NoHolderWaits) (distinct : ∀ p, LineDistinct (s.obj p).line) :
    t.NoHolderWaits ∧ ∀ p, LineDistinct (t.obj p).line := by
  have each : ∀ o, (∀ e ∈ (t.obj o).line, isMember (t.obj o).holders e.master = false) ∧ LineDistinct (t.obj o).line := by
    intro o
    have fewer : ∀ e ∈ (s.obj o).line, isMember (removeMember (s.obj o).holders n) e.master = false := fun e he => by
      rw [isMember_removeMember, apart o e he]; rfl
    cases member : isMember (s.obj o).holders n with
    | false =>
      rw [w.notHeld o member]
      exact ⟨fun e he => fewer e (List.mem_filter.mp he).1, (distinct o).sublist List.filter_sublist⟩
    | true =>
      cases alone : (s.obj o).heldAloneBy n with
      | false => rw [w.heldWithOthers o member alone]; exact ⟨fewer, distinct o⟩
      | true =>
        cases goesOn : (s.obj o).handsOverWithout n forced with
        | false => rw [w.settles o alone goesOn]; exact ⟨fewer, distinct o⟩
        | true =>
          obtain ⟨split, obj⟩ := w.handsOver o goesOn
          have line := distinct o
          rw [split.split, LineDistinct, List.pairwise_append] at line
          rw [obj]
          unfold ObjectRec.handedOver
          cases batches : batch o with
          | nil => exact ⟨fun _ _ => isMember_zero _, line.2.1⟩
          | cons x rest =>
            refine ⟨fun e he => ?_, line.2.1⟩
            rw [batches] at line
            rw [isMember_setOf]
            simp only [decide_eq_false_iff_not, List.mem_map, not_exists, not_and]
            exact fun y hy => line.2.2 y hy e he
  exact ⟨fun o => (each o).1, fun o => (each o).2⟩

/-- The cascades of a list of masters, one after another, are what the claims call so (R79, R98). -/
theorem cascades_inTurn (l : List Master) (s : State) (apart : s.NoHolderWaits)
    (distinct : ∀ p, LineDistinct (s.obj p).line) : CascadesInTurn l s (l.foldl (fun s h => cascade h s) s) := by
  induction l generalizing s with
  | nil => exact .done s
  | cons n rest ih =>
    have first := cascade_cutOff n s apart
    obtain ⟨apart', distinct'⟩ := first.objects.keeps apart distinct
    have rest' := ih (cascade n s) apart' distinct'
    rw [List.foldl_cons]
    generalize cascade n s = u at first rest'
    exact .next n rest s u _ _ _ first rest'

end Sys2Proof.Machine
end

