-- ==== Sys2Proof/Laws/Command.lean ====
section
/-! SUPPORT. How a command is taken: the window access, the event off the bus, the check order, and what inserting into
a line does. -/

namespace Sys2Proof.Machine

/-! ### Taking a command -/

/-- A window access while RESET is released: acknowledged and carried out (R155). -/
theorem answerWindow_of_released {s : State} (h : s.resetAsserted = false) (f : State → State) :
    answerWindow s f = .next (f s.acknowledged) := by simp [answerWindow, h]

/-- A window access while RESET is asserted is not answered (R155, R174). -/
theorem answerWindow_of_asserted {s : State} (h : s.resetAsserted = true) (f : State → State) :
    answerWindow s f = .next s.deasserted := by simp [answerWindow, h]

/-- A window access always answers a next state. -/
theorem answerWindow_next (s : State) (f : State → State) : ∃ t, answerWindow s f = .next t := by
  unfold answerWindow; split <;> exact ⟨_, rfl⟩

/-- An event that is no access answers a next state, taken with the bus idle (R136). -/
@[simp] theorem offBus_eq (s : State) (f : State → State) : offBus s f = .next (f s.deasserted) := rfl

/-- Deasserting the levels of an idle bus changes nothing. -/
theorem State.deasserted_of_idle {s : State} (a : s.ack = false) (d : s.deny = false) (o : s.dataOut = none) :
    s.deasserted = s := by
  cases s; simp_all [State.deasserted]

/-- Work of the Object Table leaves an idle bus idle. -/
theorem State.ObjectWork.deasserted {s t : State} (h : s.deasserted.ObjectWork t) : t.deasserted = t :=
  State.deasserted_of_idle h.ack h.deny h.dataOut

/-- The word of a window read does not depend on the levels of the bus pins. -/
@[simp] theorem State.acknowledged_readWindow (s : State) (m : Master) (offset : WindowOffset) :
    s.acknowledged.readWindow m offset = s.readWindow m offset := rfl

@[simp] theorem State.acknowledged_selectedView (s : State) (v : ViewSelect) :
    selectedView s.acknowledged v = selectedView s v := rfl

@[simp] theorem firstFailing_nil : firstFailing [] = none := rfl

theorem firstFailing_cons (b : Bool) (r : Reason) (l : List (Bool × Reason)) :
    firstFailing ((b, r) :: l) = if b then some r else firstFailing l := rfl

/-- No check fails just when every condition is false. -/
theorem firstFailing_eq_none (l : List (Bool × Reason)) : firstFailing l = none ↔ ∀ c ∈ l, c.1 = false := by
  induction l with
  | nil => simp
  | cons c l ih =>
    obtain ⟨b, r⟩ := c
    cases b <;> simp [firstFailing_cons, ih]

/-- A command with a failing check is refused with the first one's reason (R22). -/
theorem State.checked_of_some {s : State} {m : Master} {echo : BitVec 6} {l : List (Bool × Reason)} {r : Reason}
    (h : firstFailing l = some r) (f : State → State) : s.checked m echo l f = s.refuse m r echo := by
  simp [checked, h]

/-- A command that passes its checks is carried out (R22). -/
theorem State.checked_of_none {s : State} {m : Master} {echo : BitVec 6} {l : List (Bool × Reason)}
    (h : firstFailing l = none) (f : State → State) : s.checked m echo l f = f s := by
  simp [checked, h]

/-! ### The insertion of an entry -/

/-- A new entry stands behind every entry before the first of lower priority (R50). -/
theorem insertEntry_eq (e : Entry) (line : List Entry) :
    insertEntry e line =
      (line.takeWhile fun x => !decide (x.priority < e.priority)) ++
        e :: line.dropWhile fun x => !decide (x.priority < e.priority) := by
  induction line with
  | nil => rfl
  | cons x xs ih =>
    by_cases h : x.priority < e.priority <;> simp [insertEntry, h, ih]

theorem insertEntry_length (e : Entry) (line : List Entry) : (insertEntry e line).length = line.length + 1 := by
  induction line with
  | nil => rfl
  | cons x xs ih => unfold insertEntry; split <;> simp [ih]

theorem mem_insertEntry (e x : Entry) (line : List Entry) : x ∈ insertEntry e line ↔ x = e ∨ x ∈ line := by
  induction line with
  | nil => simp [insertEntry]
  | cons y ys ih =>
    unfold insertEntry; split
    · simp
    · simp [ih]; tauto

/-- The position reported is the place at which the entry stands (R33, R50). -/
theorem insertPosition_eq (e : Entry) (line : List Entry) :
    insertPosition e.priority line = (line.takeWhile fun x => !decide (x.priority < e.priority)).length + 1 := by
  induction line with
  | nil => rfl
  | cons x xs ih =>
    by_cases h : x.priority < e.priority <;> simp [insertPosition, h, ih]

/-- Insertion keeps a line in order (R50). -/
theorem insertEntry_ordered {e : Entry} {line : List Entry} (h : LineOrdered line) :
    LineOrdered (insertEntry e line) := by
  induction line with
  | nil => simp [insertEntry, LineOrdered]
  | cons x xs ih =>
    simp only [LineOrdered, List.pairwise_cons] at h
    unfold insertEntry
    split
    · rename_i lt
      simp only [LineOrdered, List.pairwise_cons, List.mem_cons, forall_eq_or_imp]
      exact ⟨⟨BitVec.le_of_lt lt, fun y hy => BitVec.le_trans (h.1 y hy) (BitVec.le_of_lt lt)⟩, h.1, h.2⟩
    · rename_i ge
      simp only [LineOrdered, List.pairwise_cons]
      refine ⟨fun y hy => ?_, ih h.2⟩
      rcases (mem_insertEntry e y xs).mp hy with rfl | hy
      · exact BitVec.not_lt.mp ge
      · exact h.1 y hy

end Sys2Proof.Machine
end

