-- ==== Sys2Proof/Tests/Slice0.lean ====
section
/-! SUPPORT. Tests: what the checks of Instr.wellFormed refuse; small states; for every statement with hypotheses a
witness that they can be met together, clause by clause; and one step of every command against the spec's rules. -/

namespace Sys2Proof.Machine.Tests

set_option maxRecDepth 20000

/-! ### WellFormed -/

theorem test_wellFormed_refuses_readmit_with_action_bar : Instr.wellFormed (.readmit 0 0x00000203#32) = false := by
  decide

theorem test_wellFormed_refuses_bar_with_action_readmit : Instr.wellFormed (.bar 0 0x00000103#32) = false := by
  decide

theorem test_wellFormed_refuses_registerWrite_at_a_command_port :
    Instr.wellFormed (.registerWrite 0 (wordAt 0x80) 15#4 0) = false ∧
      Instr.wellFormed (.registerWrite 0 (wordAt 0xE8) 15#4 0) = false := by decide

theorem test_wellFormed_refuses_readView0_at_another_offset :
    Instr.wellFormed (.readView0 ⟨0, wordAt 0x24⟩) = false ∧ Instr.wellFormed (.readView0 ⟨0, wordAt 0x20⟩) = true := by
  decide

theorem test_wellFormed_accepts_the_other_writes :
    Instr.wellFormed (.registerWrite 0 (wordAt 0x80) 7#4 0) = true ∧
      Instr.wellFormed (.registerWrite 0 (wordAt 0xA4) 15#4 0) = true ∧
      Instr.wellFormed (.readmit 0 0x00000103#32) = true ∧ Instr.wellFormed (.bar 0 0x00000203#32) = true := by decide

/-! ### Small states -/

/-- The state that a command leaves. -/
def after (c : Instr) (s : State) : State :=
  match exec c s with
  | .next t => t
  | .fault _ => s
  | .refused _ => s

/-- The result record of `m`. -/
def result (m : Master) (s : State) : ResultRec := (s.port m).result

/-- The notices in the queue of `m`. -/
def notices (m : Master) (s : State) : List Notice := (s.mst m).queue.map EventRecord.notice

def entry (m : Master) (mode : Mode) (priority : BitVec 4) : Entry where
  master := m
  mode := mode
  priority := priority
  waitRemaining := none
  tag := 7
  due := false

def freeRec : ObjectRec := { ObjectRec.reset with state := .free, objClass := .shareable, contentionYield := true }

def exclusiveRec (m : Master) (line : List Entry) : ObjectRec :=
  { freeRec with state := .heldExclusive, holders := single m, tenure := 3, line := line }

def sharedRec (holders : MasterSet) (line : List Entry) : ObjectRec :=
  { freeRec with state := .heldShared, holders := holders, tenure := 3, line := line }

def settlingRec (n : BitVec 8) (line : List Entry) : ObjectRec :=
  { freeRec with state := .settling, settle := 3, settleRemaining := some n, line := line, watchers := single 6 }

/-- The part after reset but for object 5. -/
def withObject (r : ObjectRec) : State := { State.reset.modObj 5 (fun _ => r) with poolFree := 96 - r.line.length }

/-- The part with a master's score and standing set. -/
def State.scored (s : State) (m : Master) (score : BitVec 8) : State := s.modMst m fun r => r.withScore score

/-- The part with a running time base. -/
def State.running (s : State) : State := { s with timeBase := { s.timeBase with runState := .running } }

/-- A window over granules 400h to 40Fh for object 5. -/
def window (kind : GuardKind) (action : GuardAction) : GuardWindow where
  enable := true
  base := 0x400
  limit := 0x40F
  object := 5
  kind := kind
  action := action

/-- The part with object 5 held by master 1 and guarded by window 2. -/
def guarded (action : GuardAction) : State := (withObject (exclusiveRec 1 [])).setWin 2 (window .writeGuard action)

/-- The word address of byte address 00400010h. -/
def addr : WordAddr := 0x00100004#30

/-- The record of a violation by master 2 in `guarded`. -/
def violation : LogRecord where
  master := 2
  addr := addr
  dir := .write
  window := 2
  object := 5
  cause := .noHold
  objState := .heldExclusive
  stamp := 0
  suppressed := 0

/-! ### CLAIM -/

theorem witness_ClaimGrantedOnFree :
    let s := withObject freeRec
    s.resetAsserted = false ∧ claimMalformed 0x105#32 (s.port 2).operandA = false ∧ (s.mst 2).standing ≠ .barred ∧
      (s.obj (objectField 0x105#32)).state = .free ∧ (s.obj (objectField 0x105#32)).Row ∧
      (claimMode 0x105#32 = .shared → (s.obj (objectField 0x105#32)).objClass = .shareable) := by
  refine ⟨by decide, by decide, by decide, by decide, ?_, by decide⟩
  show _ ∧ _ ∧ _ ∧ _ ∧ _ ∧ _
  decide

theorem test_claim_on_free :
    let t := after (.claim 2 0x5#32) (withObject freeRec)
    (t.obj 5).state = .heldExclusive ∧ (t.obj 5).holders = single 2 ∧ (t.obj 5).grantCount = 1 ∧
      result 2 t = ResultRec.granted 5 := by decide

theorem witness_ClaimJoinsSharedTenure :
    let s := withObject (sharedRec 0x0A [])
    s.resetAsserted = false ∧ claimMalformed 0x105#32 (s.port 2).operandA = false ∧ (s.mst 2).standing ≠ .barred ∧
      (s.obj (objectField 0x105#32)).state = .heldShared ∧ claimMode 0x105#32 = .shared ∧
      (s.obj (objectField 0x105#32)).objClass = .shareable ∧
      isMember (s.obj (objectField 0x105#32)).holders 2 = false ∧ (s.obj (objectField 0x105#32)).line = [] ∧
      (s.obj (objectField 0x105#32)).yieldPending = none := by decide

/-- On a held object, and on a FREE one. -/
theorem witness_ClaimNoWaitRefusedBusy :
    (∀ r ∈ [exclusiveRec 1 [], freeRec],
      let s := withObject r
      s.resetAsserted = false ∧ claimMalformed 0x5#32 (s.port 2).operandA = false ∧ (s.mst 2).standing ≠ .barred ∧
        (s.obj (objectField 0x5#32)).state ≠ .offline ∧ isMember (s.obj (objectField 0x5#32)).holders 2 = false ∧
        s.isWaiting 2 (objectField 0x5#32) = false ∧
        (claimMode 0x5#32 = .shared → (s.obj (objectField 0x5#32)).objClass = .shareable) ∧
        claimWait 0x5#32 = false) ∧
      ¬ ((withObject (exclusiveRec 1 [])).obj (objectField 0x5#32)).Grantable (claimMode 0x5#32) ∧
      ((withObject freeRec).obj (objectField 0x5#32)).state = .free := by
  unfold ObjectRec.Grantable; decide

/-- A waiting claim behind a priority 9 entry on a held object. -/
theorem witness_ClaimQueued :
    let s := withObject (exclusiveRec 1 [entry 3 .exclusive 9, entry 4 .exclusive 2])
    s.resetAsserted = false ∧ claimMalformed 0x9205#32 (s.port 2).operandA = false ∧ (s.mst 2).standing ≠ .barred ∧
      (s.mst 2).standing ≠ .restricted ∧ (s.obj (objectField 0x9205#32)).state ≠ .offline ∧
      isMember (s.obj (objectField 0x9205#32)).holders 2 = false ∧ s.isWaiting 2 (objectField 0x9205#32) = false ∧
      (claimMode 0x9205#32 = .shared → (s.obj (objectField 0x9205#32)).objClass = .shareable) ∧
      ¬ (s.obj (objectField 0x9205#32)).Grantable (claimMode 0x9205#32) ∧ claimWait 0x9205#32 = true ∧
      s.waitsHeld 2 < (s.mst 2).quota.toNat ∧ s.poolFree ≠ 0 := by
  unfold ObjectRec.Grantable; decide

theorem test_claim_queued_behind_equal_priority :
    let t := after (.claim 2 0x9205#32) (withObject (exclusiveRec 1 [entry 3 .exclusive 9, entry 4 .exclusive 2]))
    (t.obj 5).line.map Entry.master = [3, 2, 4] ∧ result 2 t = ResultRec.queued 5 2 ∧ t.poolFree = 93 ∧
      notices 1 t = [.yieldAsked 5 .contention 16] := by decide

/-- A held object, with the writer as it stands, RESTRICTED at its least score, with no quota, and with the pool empty. -/
theorem witness_ClaimWaitRefusals :
    let s := withObject (exclusiveRec 1 [])
    ∀ c ∈ [(State.scored s 2 128, Reason.restricted), (s.modMst 2 fun r => { r with quota := 0 }, .quota),
        ({ s with poolFree := 0 }, .poolEmpty)],
      c.1.resetAsserted = false ∧ claimMalformed 0x205#32 (c.1.port 2).operandA = false ∧
        (c.1.mst 2).standing ≠ .barred ∧ (c.1.obj (objectField 0x205#32)).state ≠ .offline ∧
        isMember (c.1.obj (objectField 0x205#32)).holders 2 = false ∧
        c.1.isWaiting 2 (objectField 0x205#32) = false ∧
        (claimMode 0x205#32 = .shared → (c.1.obj (objectField 0x205#32)).objClass = .shareable) ∧
        ¬ (c.1.obj (objectField 0x205#32)).Grantable (claimMode 0x205#32) ∧ claimWait 0x205#32 = true ∧
        (if (c.1.mst 2).standing = .restricted then some Reason.restricted
          else if (c.1.mst 2).quota.toNat ≤ c.1.waitsHeld 2 then some Reason.quota
          else if c.1.poolFree = 0 then some Reason.poolEmpty else none) = some c.2 := by
  unfold ObjectRec.Grantable; decide +kernel

/-- Each of the six reasons. -/
theorem witness_ClaimRefusalOrder :
    ∀ c ∈ [(0x45#32, State.reset, Reason.badOperand), (0x5#32, State.scored State.reset 2 192, .barred),
        (0x5#32, State.reset, .offline), (0x5#32, withObject (exclusiveRec 2 []), .holderSelf),
        (0x5#32, withObject (exclusiveRec 1 [entry 2 .exclusive 0]), .alreadyWaiting),
        (0x105#32, withObject { freeRec with objClass := .exclusiveOnly }, .modeNotAllowed)],
      c.2.1.resetAsserted = false ∧
        (if c.1 &&& ~~~0x0000F33F#32 ≠ 0 ∨ (c.2.1.port 2).operandA &&& ~~~0xFFFF00FF#32 ≠ 0 then
            some Reason.badOperand
          else if (c.2.1.mst 2).standing = .barred then some Reason.barred
          else if (c.2.1.obj (objectField c.1)).state = .offline then some Reason.offline
          else if isMember (c.2.1.obj (objectField c.1)).holders 2 = true then some Reason.holderSelf
          else if ∃ e ∈ (c.2.1.obj (objectField c.1)).line, e.master = 2 then some Reason.alreadyWaiting
          else if c.1.getLsbD 8 = true ∧ (c.2.1.obj (objectField c.1)).objClass = .exclusiveOnly then
            some Reason.modeNotAllowed
          else none) = some c.2.2 := by decide +kernel

/-! ### RELEASE and WITHDRAW -/

theorem witness_ReleaseLeavesOtherHolders :
    let s := withObject (sharedRec 0x0A [])
    s.resetAsserted = false ∧ bitsOutside 0x5#32 objectMask = false ∧
      isMember (s.obj (objectField 0x5#32)).holders 1 = true ∧
      removeMember (s.obj (objectField 0x5#32)).holders 1 ≠ 0 ∧
      (s.mst 1).standing = standingOf (s.mst 1).score ∧ (s.mst 1).standing ≠ .barred := by decide

/-- The score 64 is WARNED, and its credit returns the master to GOOD with a STANDING record. -/
theorem test_release_of_one_holder_credits :
    let t := after (.release 1 0x5#32) (State.scored (withObject (sharedRec 0x0A [])) 1 64)
    (t.obj 5).state = .heldShared ∧ (t.obj 5).holders = single 3 ∧ (t.obj 5).tenure = 3 ∧ (t.mst 1).score = 63 ∧
      notices 1 t = [.standing .good 63] := by decide

/-- The hypotheses with an empty line, an EXCLUSIVE head and a SHARED head. -/
theorem witness_ReleaseOfLastHolderHandsOver :
    ∀ line ∈ [[], [entry 2 .exclusive 3], [entry 2 .shared 3, entry 3 .shared 3, entry 4 .exclusive 1]],
      let s := withObject (exclusiveRec 1 line)
      s.resetAsserted = false ∧ bitsOutside 0x5#32 objectMask = false ∧
        isMember (s.obj (objectField 0x5#32)).holders 1 = true ∧
        removeMember (s.obj (objectField 0x5#32)).holders 1 = 0 ∧
        (s.mst 1).standing = standingOf (s.mst 1).score ∧ (s.mst 1).standing ≠ .barred := by decide

/-- With a floor of 0 the handover asks a yield of the batch after its grants. -/
theorem test_release_of_floor_0_asks_a_yield :
    let line := [entry 2 .shared 3, entry 3 .shared 3, entry 4 .exclusive 1]
    let t := after (.release 1 0x5#32) (withObject (exclusiveRec 1 line))
    t.obj 5 = (exclusiveRec 1 line).handedOver (line.take 2) (line.drop 2) ∧
      (t.obj 5).yieldPending = some { remaining := 16, reason := .contention } ∧
      notices 2 t = [.granted 5 .shared 7, .yieldAsked 5 .contention 16] := by decide

theorem test_release_grants_the_shared_batch :
    let t := after (.release 1 0x5#32)
      (withObject (exclusiveRec 1 [entry 2 .shared 3, entry 3 .shared 3, entry 4 .exclusive 1]))
    (t.obj 5).state = .heldShared ∧ (t.obj 5).holders = 0x0C ∧ (t.obj 5).line = [entry 4 .exclusive 1] ∧
      t.poolFree = 95 ∧ notices 3 t = [.granted 5 .shared 7, .yieldAsked 5 .contention 16] := by decide

theorem witness_ClientRefusals :
    let s := withObject (exclusiveRec 1 [])
    s.resetAsserted = false ∧ 0x40#32 &&& ~~~0x0000003F#32 ≠ 0 ∧ 0x5#32 &&& ~~~0x0000003F#32 = 0 ∧
      isMember (s.obj (objectField 0x5#32)).holders 2 = false ∧ s.isWaiting 2 (objectField 0x5#32) = false ∧
      0x40#32 ≠ 0 := by decide

theorem witness_WithdrawRemovesEntry :
    let s := withObject (exclusiveRec 1 [entry 3 .exclusive 9, entry 2 .exclusive 2])
    s.resetAsserted = false ∧ bitsOutside 0x5#32 objectMask = false ∧ s.isWaiting 2 (objectField 0x5#32) = true ∧
      LineDistinct (s.obj (objectField 0x5#32)).line := by
  unfold LineDistinct; decide

theorem test_withdraw :
    let t := after (.withdraw 3 0x5#32) (withObject (exclusiveRec 1 [entry 3 .exclusive 9, entry 2 .exclusive 2]))
    (t.obj 5).line = [entry 2 .exclusive 2] ∧ t.poolFree = 95 ∧ result 3 t = ResultRec.done 5 := by decide

/-! ### Watches, events and attention -/

/-- The four cases of a WATCH. -/
theorem witness_WatchOutcomes :
    let s := withObject (exclusiveRec 1 [])
    s.resetAsserted = false ∧ bitsOutside 0x5#32 objectMask = false ∧
      ((State.scored s 2 192).mst 2).standing = .barred ∧ (State.reset.obj (objectField 0x5#32)).state = .offline ∧
      ((withObject freeRec).obj (objectField 0x5#32)).state = .free ∧
      (s.obj (objectField 0x5#32)).state = .heldExclusive := by decide

theorem test_watch :
    ((after (.watch 2 0x5#32) (withObject (exclusiveRec 1 []))).obj 5).watchers = single 2 ∧
      notices 2 (after (.watch 2 0x5#32) (withObject freeRec)) = [.freed 5] := by decide

theorem witness_UnwatchLeavesWatchSet :
    let s := withObject (settlingRec 2 [])
    let u := withObject freeRec
    s.resetAsserted = false ∧ 0x40#32 &&& ~~~0x0000003F#32 ≠ 0 ∧ 0x5#32 &&& ~~~0x0000003F#32 = 0 ∧
      isMember (s.obj (objectField 0x5#32)).watchers 2 = false ∧ (u.obj (objectField 0x5#32)).Row ∧
      (u.obj (objectField 0x5#32)).state = .free := by
  refine ⟨by decide, by decide, by decide, by decide, ?_, by decide⟩
  show _ ∧ _ ∧ _ ∧ _ ∧ _ ∧ _
  decide

theorem test_unwatch :
    ((after (.unwatch 6 0x5#32) (withObject (settlingRec 2 []))).obj 5).watchers = 0 ∧
      ((after (.unwatch 2 0x5#32) (withObject (settlingRec 2 []))).obj 5).watchers = single 6 := by decide

/-- The part with one record in the queue of master 2 and its attention enable on. -/
def attentive : State := (State.reset.modMst 2 fun r => { r with attention := true, overflow := true }).post 2 .logPending

theorem witness_AckEventRemovesHead :
    attentive.resetAsserted = false ∧ (attentive.mst 2).queue = [{ seq := 0, notice := .logPending }] ∧
      (attentive.mst 3).queue = [] ∧ 1#32 ≠ 0 := by decide

theorem test_ackEvent :
    attentive.atn 2 = true ∧ (after (.ackEvent 2 0) attentive).atn 2 = false ∧
      notices 2 (after (.ackEvent 2 0) attentive) = [] ∧ ((after (.ackEvent 2 0) attentive).mst 2).nextSeq = 1 ∧
      result 3 (after (.ackEvent 3 0) attentive) = ResultRec.refused .queueEmpty 0 := by decide

theorem witness_ClearOverflowClearsFlag : attentive.resetAsserted = false := by decide

theorem test_clearOverflow :
    ((after (.clearOverflow 2 0) attentive).mst 2).overflow = false ∧
      ((after (.clearOverflow 2 1) attentive).mst 2).overflow = true := by decide

theorem witness_SetAttentionDrivesLine :
    attentive.resetAsserted = false ∧ 2#32 &&& ~~~0x00000001#32 ≠ 0 ∧ 1#32 &&& ~~~0x00000001#32 = 0 := by decide

theorem test_setAttention :
    (after (.setAttention 2 0) attentive).atn 2 = false ∧ (after (.setAttention 3 1) attentive).atn 3 = false ∧
      (after (.setAttention 3 1) attentive).atn 2 = true := by decide

/-- A queue of 7 records stores the next, and a queue of 8 discards it. -/
theorem test_post_boundary :
    let s := (List.replicate 7 (2 : Master)).foldl (fun s m => s.post m .logPending) State.reset
    let t := s.post 2 (.freed 5)
    let u := t.post 2 (.freed 6)
    (s.mst 2).queue.length = 7 ∧ (t.mst 2).queue.length = 8 ∧ (t.mst 2).overflow = false ∧
      (u.mst 2).queue = (t.mst 2).queue ∧ (u.mst 2).overflow = true ∧ (u.mst 2).nextSeq = 9 := by decide

/-! ### Masters -/

/-- Master 2 holds object 5 with a waiter behind it. -/
def busy : State := (withObject (exclusiveRec 2 [entry 3 .exclusive 1])).post 2 .logPending

theorem busy_noHolderWaits : busy.NoHolderWaits := by unfold State.NoHolderWaits; decide +kernel

theorem witness_ResetSelfClearsMaster :
    busy.resetAsserted = false ∧ busy.NoHolderWaits ∧ isMember (busy.obj 5).holders 2 = true ∧
      (busy.obj 5).state ≠ .settling ∧ isMember (busy.obj 6).holders 2 = false ∧ busy.isWaiting 2 6 = false ∧
      isMember (busy.obj 6).watchers 2 = false := by
  refine ⟨by decide, busy_noHolderWaits, by decide, by decide, by decide, by decide, by decide⟩

theorem test_resetSelf :
    let t := after (.resetSelf 2 0) busy
    (t.obj 5).holders = single 3 ∧ (t.mst 2).queue = [] ∧ (t.mst 2).nextSeq = 1 ∧
      result 2 t = ResultRec.doneCount 0 1 := by decide +kernel

theorem witness_ClearMasterClearsNamed :
    busy.resetAsserted = false ∧ (busy.mst 0).supervisor = true ∧ bitsOutside 0x2#32 clearMask = false ∧
      busy.NoHolderWaits ∧ isMember (busy.obj 6).holders (masterField 0x2#32) = false ∧
      busy.isWaiting (masterField 0x2#32) 6 = false ∧ isMember (busy.obj 6).watchers (masterField 0x2#32) = false := by
  refine ⟨by decide, by decide, by decide, busy_noHolderWaits, by decide, by decide, by decide⟩

theorem test_clearMaster :
    let t := after (.clearMaster 0 0x2#32) busy
    (t.obj 5).holders = single 3 ∧ notices 2 t = [.cleared 0] ∧ result 0 t = ResultRec.doneCount 2 1 := by
  decide +kernel

/-- The objects of a clearing: held with another master, held alone with settle and without, and waited on. -/
theorem witness_ClearMasterClearsNamed_objects :
    ∀ c ∈ [(sharedRec 0x0C [], true, false), ({ exclusiveRec 2 [] with settle := 3 }, true, true),
        (exclusiveRec 2 [entry 3 .exclusive 1], true, true), (exclusiveRec 1 [entry 2 .exclusive 1], false, false)],
      let r := (withObject c.1).obj 5
      (∀ e ∈ r.line, isMember r.holders e.master = false) ∧ isMember r.holders 2 = c.2.1 ∧
        r.heldAloneBy 2 = c.2.2 ∧ r.handsOverWithout 2 false = c.2.2 := by decide

/-- An object that a clearing empties never settles, and its batch is asked to yield at a floor of 0; one held with
another master keeps its tenure. -/
theorem test_clearMaster_hands_over :
    let line := [entry 3 .shared 3, entry 4 .shared 3, entry 5 .exclusive 1]
    let t := after (.clearMaster 0 0x2#32) (withObject { exclusiveRec 2 line with settle := 3 })
    let u := after (.clearMaster 0 0x2#32) (withObject (sharedRec 0x0C []))
    t.obj 5 = { (exclusiveRec 2 line).handedOver (line.take 2) (line.drop 2) with settle := 3 } ∧
      notices 4 t = [.granted 5 .shared 7, .yieldAsked 5 .contention 16] ∧ t.poolFree = 95 ∧
      u.obj 5 = sharedRec 0x08 [] := by decide +kernel

theorem witness_SetQuotaSetsQuota :
    State.reset.resetAsserted = false ∧ (State.reset.mst 0).supervisor = true ∧
      bitsOutside 0x2002#32 quotaMask = false ∧ bitsOutside 0x2102#32 quotaMask = false := by decide

/-- A quota of 32 is set, and a quota of 33 refused. -/
theorem test_setQuota :
    ((after (.setQuota 0 0x2002#32) State.reset).mst 2).quota = 32 ∧
      ((after (.setQuota 0 0x2102#32) State.reset).mst 2).quota = 12 ∧
      result 0 (after (.setQuota 0 0x2102#32) State.reset) = ResultRec.refused .badOperand 2 := by decide

theorem witness_ReadmitRestoresGood :
    State.reset.resetAsserted = false ∧ (State.reset.mst 0).supervisor = true ∧
      bitsOutside 0x102#32 standingMask = false ∧ (0x102#32).extractLsb' 8 2 = 1#2 := by decide

theorem test_readmit :
    let t := after (.readmit 0 0x102#32) (State.scored State.reset 2 200)
    (t.mst 2).score = 0 ∧ (t.mst 2).standing = .good ∧ notices 2 t = [.standing .good 0] ∧
      notices 3 (after (.readmit 0 0x103#32) State.reset) = [] := by decide

/-- Both clauses, and a master that holds nothing. -/
theorem witness_BarCutsMasterOff :
    State.reset.resetAsserted = false ∧ (State.reset.mst 0).supervisor = true ∧
      bitsOutside 0x202#32 standingMask = false ∧ (0x202#32).extractLsb' 8 2 = 2#2 ∧
      ((State.scored State.reset 2 192).mst (masterField 0x202#32)).standing = .barred ∧
      (busy.mst (masterField 0x202#32)).standing ≠ .barred ∧ busy.NoHolderWaits ∧
      State.reset.HoldsNothing (masterField 0x202#32) := by
  refine ⟨by decide, by decide, by decide, by decide, by decide, by decide, busy_noHolderWaits, ?_⟩
  unfold State.HoldsNothing; decide +kernel

/-- The objects of the cascade: held with another master, held alone with settle and without, and waited on. -/
theorem witness_BarCutsMasterOff_objects :
    ∀ c ∈ [(sharedRec 0x0C [], true, false), ({ exclusiveRec 2 [] with settle := 3 }, true, true),
        (exclusiveRec 2 [entry 3 .exclusive 1], true, true), (exclusiveRec 1 [entry 2 .exclusive 1], false, false)],
      let s := withObject c.1
      (s.mst (masterField 0x202#32)).standing ≠ .barred ∧
        (∀ e ∈ (s.obj 5).line, isMember (s.obj 5).holders e.master = false) ∧
        isMember (s.obj 5).holders (masterField 0x202#32) = c.2.1 ∧
        (c.2.1 && removeMember (s.obj 5).holders (masterField 0x202#32) == 0) = c.2.2 := by decide

/-- The object that the cascade empties settles when settle is non-zero, and a wait of the barred master ends. -/
theorem test_bar_settles_and_ends_waits :
    let t := after (.bar 0 0x202#32) (withObject { exclusiveRec 2 [entry 3 .exclusive 1] with settle := 3 })
    let u := after (.bar 0 0x202#32) (withObject (exclusiveRec 1 [entry 2 .exclusive 1]))
    (t.obj 5).state = .settling ∧ (t.obj 5).settleRemaining = some 3 ∧ (t.obj 5).line = [entry 3 .exclusive 1] ∧
      notices 3 t = [] ∧ (u.obj 5).line = [] ∧
      notices 2 u = [.standing .barred 192, .waitEnded 5 .barred] := by decide +kernel

theorem test_bar :
    let t := after (.bar 0 0x202#32) busy
    (t.mst 2).standing = .barred ∧ (t.mst 2).score = 192 ∧ (t.obj 5).holders = single 3 ∧
      notices 2 t = [.logPending, .standing .barred 192, .revoked 5 .barred] ∧ notices 0 t = [.faultBarred 2] := by
  decide +kernel

/-- The three cases in which a setting is made, and the one in which it is refused. -/
theorem witness_SetSupervisorKeepsOne :
    let s := State.reset
    let two := s.modMst 3 fun r => { r with supervisor := true }
    s.resetAsserted = false ∧ (s.mst 0).supervisor = true ∧ bitsOutside 0x102#32 supervisorMask = false ∧
      bitsOutside 0x0#32 supervisorMask = false ∧ (0x102#32).getLsbD 8 = true ∧
      (s.mst (masterField 0x2#32)).supervisor = false ∧
      (∃ k, k ≠ masterField 0x0#32 ∧ (two.mst k).supervisor = true) ∧ (0x0#32).getLsbD 8 = false ∧
      (s.mst (masterField 0x0#32)).supervisor = true ∧
      ∀ k, k ≠ masterField 0x0#32 → (s.mst k).supervisor = false := by decide

theorem test_setSupervisor :
    ((after (.setSupervisor 0 0x102#32) State.reset).mst 2).supervisor = true ∧
      ((after (.setSupervisor 0 0x0#32) State.reset).mst 0).supervisor = true ∧
      result 0 (after (.setSupervisor 0 0x0#32) State.reset) = ResultRec.refused .lastSupervisor 0 := by decide

theorem witness_SupervisorCommandsNeedAttribute :
    supervisorWrite (.setTimeBase 1 0) = some (1, 0) ∧ State.reset.resetAsserted = false ∧
      (State.reset.mst 1).supervisor = false := by decide

/-- Every clause of the refusals of supervisor commands. -/
theorem witness_SupervisorRefusals :
    let s := State.reset
    let u := withObject freeRec
    s.resetAsserted = false ∧ (s.mst 0).supervisor = true ∧ (s.port 0).operandA.extractLsb' 16 8 = 0 ∧
      ¬ (0x5#32 &&& ~~~0x00FFFFFF#32 ≠ 0 ∨
          (((u.modPort 0 fun p => { p with operandA := 0x10000#32 }).port 0).operandA) &&& ~~~0x00FFFFFF#32 ≠ 0 ∨
          (((u.modPort 0 fun p => { p with operandA := 0x10000#32 }).port 0).operandA).extractLsb' 16 8 = 0) ∧
      (u.obj (objectField 0x5#32)).state ≠ .offline ∧ 0x40#32 &&& ~~~0x0000003F#32 ≠ 0 ∧
      0x5#32 &&& ~~~0x0000003F#32 = 0 ∧ (s.obj (objectField 0x5#32)).state = .offline ∧
      (u.obj (objectField 0x5#32)).isHeld = false ∧ 0x8#32 &&& ~~~0x00003F07#32 ≠ 0 ∧
      ((0x2#32).extractLsb' 8 2 ≠ 1#2 ∧ (0x2#32).extractLsb' 8 2 ≠ 2#2) ∧ 0x8#32 &&& ~~~0x00000107#32 ≠ 0 ∧
      0x8#32 &&& ~~~0x00000007#32 ≠ 0 ∧ 0x10#32 &&& ~~~0x003F070F#32 ≠ 0 ∧ 0x1#32 ≠ 0 ∧
      0x20000#32 &&& ~~~0x0001FFFF#32 ≠ 0 := by decide

theorem witness_RefusedChangesOnlyResult :
    let t := after (.release 2 0x5#32) (withObject (exclusiveRec 1 []))
    portWrite (.release 2 0x5#32) = some (2, 0x5#32) ∧ (withObject (exclusiveRec 1 [])).resetAsserted = false ∧
      exec (.release 2 0x5#32) (withObject (exclusiveRec 1 [])) = .next t ∧ (result 2 t).outcome = .refused := by
  refine ⟨by decide, by decide, rfl, by decide⟩

/-! ### Objects -/

/-- The encoding of section 11.1: object 2 with OPERAND_A 00050000h and port word 00040A82h. -/
def configured : State := State.reset.modPort 0 fun p => { p with operandA := 0x00050000#32 }

theorem witness_ConfigObjectWritesConfiguration :
    configured.resetAsserted = false ∧ (configured.mst 0).supervisor = true ∧
      0x00040A82#32 &&& ~~~0x00FFFFFF#32 = 0 ∧ (configured.port 0).operandA &&& ~~~0x00FFFFFF#32 = 0 ∧
      (configured.port 0).operandA.extractLsb' 16 8 ≠ 0 ∧
      (configured.obj (objectField 0x00040A82#32)).state = .offline := by decide

theorem test_configObject :
    (after (.configObject 0 0x00040A82#32) configured).obj 2 =
      { ObjectRec.reset with contentionYield := true, floor := 10, settle := 4, ceiling := 0, allowance := 5 } := by
  decide

theorem witness_OnlineMakesFree :
    State.reset.resetAsserted = false ∧ (State.reset.mst 0).supervisor = true ∧
      bitsOutside 0x5#32 objectMask = false ∧ (State.reset.obj (objectField 0x5#32)).state = .offline := by decide

theorem test_online :
    ((after (.online 0 0x5#32) State.reset).obj 5).state = .free ∧
      result 0 (after (.online 0 0x5#32) (withObject freeRec)) = ResultRec.refused .alreadyOnline 5 := by decide

theorem witness_OfflineEndsEverything :
    let s := withObject (settlingRec 2 [entry 3 .exclusive 1])
    s.resetAsserted = false ∧ (s.mst 0).supervisor = true ∧ bitsOutside 0x5#32 objectMask = false ∧
      (s.obj (objectField 0x5#32)).state ≠ .offline := by decide

theorem test_offline :
    let t := after (.offline 0 0x5#32) (withObject (settlingRec 2 [entry 3 .exclusive 1]))
    (t.obj 5).state = .offline ∧ (t.obj 5).line = [] ∧ (t.obj 5).watchers = 0 ∧ t.poolFree = 96 ∧
      notices 3 t = [.waitEnded 5 .offline] ∧ notices 6 t = [.watchEnded 5] := by decide

/-- With settle, without settle and an empty line, and without settle and a line. -/
theorem witness_RevokeEmptiesByForce :
    ∀ r ∈ [{ exclusiveRec 1 [] with settle := 3 }, exclusiveRec 1 [], exclusiveRec 1 [entry 3 .shared 1]],
      let s := withObject r
      s.resetAsserted = false ∧ (s.mst 0).supervisor = true ∧ bitsOutside 0x5#32 objectMask = false ∧
        (s.obj (objectField 0x5#32)).isHeld = true := by decide

theorem test_revoke :
    let t := after (.revoke 0 0x5#32) (withObject { exclusiveRec 1 [] with settle := 3 })
    let u := after (.revoke 0 0x5#32) (withObject (exclusiveRec 1 [entry 3 .shared 1]))
    (t.obj 5).state = .settling ∧ (t.obj 5).settleRemaining = some 3 ∧ notices 1 t = [.revoked 5 .supervisor] ∧
      (u.obj 5).state = .heldShared ∧ (u.obj 5).holders = single 3 ∧ notices 1 u = [.revoked 5 .supervisor] ∧
      notices 3 u = [.granted 5 .shared 7] := by decide

/-! ### Guard windows and the log -/

theorem witness_ConfigGuardWritesWindow :
    State.reset.resetAsserted = false ∧ (State.reset.mst 0).supervisor = true ∧ 0x00050702#32 &&& ~~~0x003F070F#32 = 0 ∧
      (State.reset.port 0).operandA &&& ~~~0x000FFFFF#32 = 0 ∧
      (State.reset.port 0).operandB &&& ~~~0x000FFFFF#32 = 0 := by decide

theorem test_configGuard :
    (after (.configGuard 0 0x00050702#32)
        (State.reset.modPort 0 fun p => { p with operandA := 0x400#32, operandB := 0x40F#32 })).win 2 =
      window .accessGuard .deny := by decide

/-- A window is active with its limit equal to its base, and not with its limit below it; its object comes into service
and goes out of it. -/
theorem witness_WindowActiveRule :
    let narrow : GuardWindow := { window .writeGuard .log with limit := 0x400 }
    let empty : GuardWindow := { window .writeGuard .log with limit := 0x3FF }
    let s := State.reset.setWin 2 narrow
    (withObject freeRec).windowActive narrow = true ∧ (withObject freeRec).windowActive empty = false ∧
      s.resetAsserted = false ∧ (s.mst 0).supervisor = true ∧ bitsOutside 0x5#32 objectMask = false ∧
      (s.obj (objectField 0x5#32)).state = .offline ∧ (s.win 2).object = objectField 0x5#32 ∧
      (after (.online 0 0x5#32) s).windowActive narrow = true ∧
      ((withObject freeRec).obj (objectField 0x5#32)).state ≠ .offline := by decide

/-- Each relation of Table 7-2, on a record of its row. -/
theorem witness_CheckResultsTable :
    (exclusiveRec 1 []).Row ∧ (sharedRec 0x0A []).Row ∧ freeRec.Row ∧ (settlingRec 2 []).Row ∧
      (exclusiveRec 1 []).state ≠ .offline ∧ isMember (exclusiveRec 1 []).holders 1 = true ∧
      isMember (sharedRec 0x0A []).holders 1 = true ∧ isMember (exclusiveRec 1 []).holders 2 = false := by
  refine ⟨⟨⟨1, rfl⟩, rfl⟩, ⟨by decide, rfl⟩, ⟨rfl, rfl, rfl, rfl, rfl, rfl⟩, ⟨rfl, rfl, rfl, 2, rfl, by decide⟩, ?_⟩
  decide

/-- An access by the holder, and one at the granule behind the window. -/
theorem witness_PassingObservationChangesNothing :
    (guarded .deny).resetAsserted = false ∧
      (∀ i, (guarded .deny).windowActive ((guarded .deny).win i) = true →
        ((guarded .deny).win i).contains (granuleOf addr) = true →
        checkAccess ((guarded .deny).win i).kind .write 1 ((guarded .deny).obj ((guarded .deny).win i).object) = none) ∧
      ∀ i, ((guarded .deny).win i).contains (granuleOf 0x00104000#30) = true →
        (guarded .deny).windowActive ((guarded .deny).win i) = false := by decide +kernel

/-- After a BAR that leaves object 5 SETTLING, its windows fail every WRITE, and every READ in an ACCESS-GUARD window,
by whichever master; a READ in a WRITE-GUARD window passes (R84, R139, Table 7-2; log 21). -/
theorem test_settling_windows_after_bar :
    let t := after (.bar 0 0x201#32) (withObject { exclusiveRec 1 [entry 3 .exclusive 1] with settle := 3 })
    (t.obj 5).state = .settling ∧
      ∀ m, checkAccess .writeGuard .write m (t.obj 5) = some .noHold ∧
        checkAccess .accessGuard .write m (t.obj 5) = some .noHold ∧
        checkAccess .accessGuard .read m (t.obj 5) = some .noHold ∧
        checkAccess .writeGuard .read m (t.obj 5) = none := by decide +kernel

theorem test_window_contains_boundaries :
    (window .writeGuard .deny).contains (granuleOf 0x00100000#30) = true ∧
      (window .writeGuard .deny).contains (granuleOf 0x00103FFF#30) = true ∧
      (window .writeGuard .deny).contains (granuleOf 0x00104000#30) = false ∧
      (window .writeGuard .deny).contains (granuleOf 0x000FFFFF#30) = false := by decide

/-- A violation on an empty log, with the log one record short of full, and with it full; and one that bars its
master. -/
theorem witness_ViolationDenyRecordCharge :
    ∀ log ∈ [[], List.replicate 15 violation, List.replicate 16 violation],
      let s := { guarded .deny with log := log }
      let fails := fun j => s.windowActive (s.win j) && (s.win j).contains (granuleOf addr) &&
        (checkAccess (s.win j).kind .write 2 (s.obj (s.win j).object)).isSome
      s.resetAsserted = false ∧ fails 2 = true ∧ (∀ j, j < 2 → fails j = false) ∧
        checkAccess (s.win 2).kind .write 2 (s.obj (s.win 2).object) = some .noHold := by decide +kernel

theorem test_observation_violation :
    let t := after (.observation 2 addr .write) (State.scored (guarded .deny) 2 60)
    t.deny = true ∧ t.log = [violation] ∧ (t.mst 2).score = 66 ∧ notices 2 t = [.standing .warned 66] ∧
      notices 0 t = [.logPending] := by decide

/-- Master 2 holds object 6 with a waiter behind it, and its next violation makes it BARRED. -/
def offender : State :=
  { State.scored ((guarded .deny).modObj 6 fun _ => exclusiveRec 2 [entry 3 .exclusive 1]) 2 190 with poolFree := 95 }

/-- The standing that a charge gives: unchanged, WARNED, and BARRED for a master that was not and for one that was. -/
theorem witness_ViolationDenyRecordCharge_standing :
    (∀ c ∈ [((0 : BitVec 8), Standing.good, Standing.good), (60, .good, .warned), (190, .restricted, .barred),
          (200, .barred, .barred)],
        ((State.scored (guarded .deny) 2 c.1).mst 2).standing = c.2.1 ∧
          (if c.2.1 = .barred then .barred else standingOf (BitVec.ofNat 8 (min 255 (c.1.toNat + 6)))) = c.2.2) ∧
      offender.NoHolderWaits := by
  unfold State.NoHolderWaits; decide +kernel

theorem test_observation_bars :
    let t := after (.observation 2 addr .write) offender
    (t.mst 2).standing = .barred ∧ notices 2 t = [.standing .barred 196, .revoked 6 .barred] ∧
      notices 0 t = [.logPending, .faultBarred 2] ∧ (t.obj 6).holders = single 3 ∧
      notices 3 t = [.granted 6 .exclusive 7] ∧ (t.obj 5).holders = single 1 := by decide +kernel

/-- DENY of a denied access falls at the next step, be it a period, a TU end, an idle bus or a window access; only an
observed access asserts it. -/
theorem test_deny_is_not_latched :
    let t := after (.observation 2 addr .write) (guarded .deny)
    t.deny = true ∧ (after .rclkPeriod t).deny = false ∧ (after .timeUnitEnd t).deny = false ∧
      (after (.deadline 5) t).deny = false ∧ (after .resetRelease t).deny = false ∧
      (after (.readView0 ⟨2, wordAt 0x44⟩) t).deny = false ∧ step t = .next { t with deny := false } := by
  refine ⟨by decide, by decide, by decide, by decide, by decide, by decide, rfl⟩

/-- An event that is no access, and that is neither an observation nor a read. -/
theorem witness_PassingObservationChangesNothing_levels :
    (∀ m a d, Instr.rclkPeriod ≠ .observation m a d) ∧ windowAccess .rclkPeriod = none ∧
      ∀ r, Instr.rclkPeriod ≠ .readView0 r := by
  refine ⟨?_, rfl, ?_⟩ <;> intros <;> exact Instr.noConfusion

/-- A read, a register write, and commands carried out and refused, made while RESET is released. -/
theorem witness_PassingObservationChangesNothing_ack :
    (∀ c ∈ [Instr.readView0 ⟨2, wordAt 0x44⟩, .registerWrite 2 (wordAt 0x04) 7#4 0, .release 1 0x5#32, .bar 0 0x202#32,
        .setTimeBase 0 0x00010004#32], (windowAccess c).isSome = true) ∧ (guarded .deny).resetAsserted = false := by
  decide

/-- The commands that change most, a RELEASE, a BAR and a SET_TIME_BASE with an expiry outstanding, and an access
without all its byte enables, end with ACK; with RESET asserted none does. -/
theorem test_window_access_is_acknowledged :
    let due := State.running (withObject { settlingRec 1 [] with owed := { settle := true, yield := false, tenure := false } })
    (after (.release 1 0x5#32) (guarded .deny)).ack = true ∧ (after (.bar 0 0x202#32) (guarded .deny)).ack = true ∧
      (after (.setTimeBase 0 0x00010004#32) due).ack = true ∧
      ((after (.setTimeBase 0 0x00010004#32) due).obj 5).state = .free ∧
      (after (.registerWrite 2 (wordAt 0x04) 7#4 0) State.reset).ack = true ∧
      (after (.release 1 0x5#32) { guarded .deny with resetAsserted := true }).ack = false := by decide +kernel

theorem test_observation_on_full_log :
    let t := after (.observation 2 addr .write) { guarded .log with log := List.replicate 16 violation }
    t.deny = false ∧ t.log = List.replicate 15 violation ++ [{ violation with suppressed := 1 }] ∧
      (t.mst 2).score = 6 := by decide +kernel

theorem witness_AckLogRemovesOldest :
    let s := { State.reset with log := [violation] }
    s.resetAsserted = false ∧ (s.mst 0).supervisor = true ∧ s.log = violation :: [] ∧ State.reset.log = [] := by decide

theorem test_ackLog :
    (after (.ackLog 0 0) { State.reset with log := [violation] }).log = [] ∧
      result 0 (after (.ackLog 0 0) State.reset) = ResultRec.refused .logEmpty 0 := by decide

/-! ### The time base and the expiries -/

theorem witness_SetTimeBaseSetsBoth :
    State.reset.resetAsserted = false ∧ (State.reset.mst 0).supervisor = true ∧ 0x000103E7#32 &&& ~~~0x0001FFFF#32 = 0 ∧
      State.reset.outstanding = [] := by decide +kernel

theorem test_setTimeBase :
    (after (.setTimeBase 0 0x00010004#32) State.reset).timeBase =
      { runState := .running, divider := 4, dividerInForce := 999, periodCount := 0, uptime := 0 } := by
  decide +kernel

/-- The part with `n` periods counted. -/
def counted (n : BitVec 16) : State :=
  let s := State.running State.reset
  { s with timeBase := { s.timeBase with periodCount := n } }

/-- One period short of the divider in force, at it, and stopped. -/
theorem witness_RclkPeriodCounts :
    (counted 998).timeBase.runState = .running ∧
      (counted 998).timeBase.periodCount < (counted 998).timeBase.dividerInForce ∧
      (counted 998).outstanding = [] ∧ (counted 999).timeBase.runState = .running ∧
      (counted 999).timeBase.periodCount = (counted 999).timeBase.dividerInForce ∧
      State.reset.timeBase.runState = .stopped := by decide +kernel

theorem test_rclkPeriod :
    (after .rclkPeriod (counted 998)).timeBase.periodCount = 999 ∧
      (after .rclkPeriod (counted 998)).timeBase.uptime = 0 ∧
      (after .rclkPeriod (counted 999)).timeBase.periodCount = 0 ∧
      (after .rclkPeriod (counted 999)).timeBase.uptime = 1 := by decide +kernel

theorem witness_TimeUnitEndIsPeriodsOwed :
    (counted 999).timeBase.runState = .running ∧
      (counted 999).timeBase.periodCount ≤ (counted 999).timeBase.dividerInForce := by decide

/-- An object for each clause: OFFLINE, SETTLING with 2 and with 1 remaining, a yield with 1 remaining, a tenure at
65535, a tenure that rises past no mark, one that rises to the ceiling, one that rises to the floor, and an entry with a
wait remaining of 1. -/
theorem witness_TimeUnitEndAdvancesCounts :
    (∀ r ∈ [ObjectRec.reset, settlingRec 2 [], settlingRec 1 [],
          { exclusiveRec 1 [] with yieldPending := some { remaining := 1, reason := .ceiling } },
          { exclusiveRec 1 [] with tenure := 65535 }, exclusiveRec 1 [], { exclusiveRec 1 [] with ceiling := 4 },
          { exclusiveRec 1 [] with floor := 4 },
          exclusiveRec 1 [{ entry 2 .exclusive 2 with waitRemaining := some 1 }]],
        (State.running (withObject r)).timeBase.runState = .running ∧ (State.running (withObject r)).outstanding = []) ∧
      (exclusiveRec 1 []).isHeld = true ∧ (exclusiveRec 1 []).yieldPending = none ∧
      (exclusiveRec 1 []).ceiling = 0 ∧
      (exclusiveRec 1 []).tenure + 1 ≠ (exclusiveRec 1 []).floor.setWidth 16 ∧
      (exclusiveRec 1 []).tenure ≠ 65535 ∧ (exclusiveRec 1 []).tenure + 1 = 4 := by decide +kernel

/-- A tenure that rises to the ceiling keeps its value and owes its event; the next command takes it. -/
theorem test_timeUnitEnd_owes_the_ceiling :
    let t := after .timeUnitEnd (State.running (withObject { exclusiveRec 1 [] with ceiling := 4 }))
    (t.obj 5).tenure = 3 ∧ t.outstanding = [.object 5] ∧
      ((after (.tenureReachesCeiling 5) t).obj 5).yieldPending = some { remaining := 16, reason := .ceiling } ∧
      ((after .rclkPeriod t).obj 5).yieldPending = some { remaining := 16, reason := .ceiling } := by decide +kernel

theorem test_timeUnitEnd :
    let t := after .timeUnitEnd (State.running (withObject { exclusiveRec 1 [] with tenure := 65535 }))
    let u := after .timeUnitEnd (State.running (withObject (settlingRec 2 [])))
    (t.obj 5).tenure = 65535 ∧ t.timeBase.uptime = 1 ∧ (u.obj 5).settleRemaining = some 1 ∧
      ((after .timeUnitEnd (State.running (withObject (exclusiveRec 1 [])))).obj 5).tenure = 4 := by decide +kernel

/-- A held object that owes the fall of a yield from 1. -/
def deadlineDue (r : ObjectRec) : ObjectRec :=
  { r with
    yieldPending := some { remaining := 1, reason := .contention }
    owed := { settle := false, yield := true, tenure := true } }

/-- With settle, and without settle and an empty line. -/
theorem witness_DeadlineRevokesAndCharges :
    ∀ r ∈ [{ exclusiveRec 1 [] with settle := 3 }, exclusiveRec 1 []],
      ((withObject (deadlineDue r)).obj 5).yieldFallsOut = true := by decide

/-- With settle 0 and a line of masters that hold nothing, no holder made BARRED, and one made so. -/
theorem witness_DeadlineRevokesAndCharges_line :
    ∀ score ∈ [(0 : BitVec 8), 167, 168],
      let s := State.scored (withObject (deadlineDue (exclusiveRec 1 [entry 3 .exclusive 1]))) 1 score
      (s.obj 5).settle = 0 ∧ (∀ e ∈ (s.obj 5).line, isMember (s.obj 5).holders e.master = false) ∧
        (((after (.deadline 5) s).mst 1).standing = .barred ↔ score = 168) := by decide +kernel

/-- Master 1 holds object 5, whose deadline bars it, with a waiter and two watchers, itself among them; it holds object
6 and waits on object 7. -/
def barring (settle : BitVec 8) : State :=
  let s := withObject { deadlineDue (exclusiveRec 1 [entry 3 .exclusive 1]) with settle := settle, watchers := 0x42 }
  let u := (s.modObj 6 fun _ => exclusiveRec 1 []).modObj 7 fun _ => exclusiveRec 4 [entry 1 .exclusive 1]
  { State.scored u 1 168 with poolFree := 94 }

/-- With settle and without, a holder made BARRED that holds and waits elsewhere. -/
theorem witness_DeadlineRevokesAndCharges_barring :
    ∀ settle ∈ [(3 : BitVec 8), 0],
      let s := barring settle
      (s.obj 5).yieldFallsOut = true ∧ (s.obj 5).settle = settle ∧ s.NoHolderWaits ∧
        (∀ p, LineDistinct (s.obj p).line) ∧ (s.mst 1).standing ≠ .barred ∧
        ((after (.deadline 5) s).mst 1).standing = .barred := by
  unfold State.NoHolderWaits LineDistinct; decide +kernel

/-- The object settles with its line and the other watcher; the barred holder loses its other hold and its wait. -/
theorem test_deadline_settles_and_cuts_off :
    let t := after (.deadline 5) (barring 3)
    (t.obj 5).state = .settling ∧ (t.obj 5).line = [entry 3 .exclusive 1] ∧ (t.obj 5).watchers = single 6 ∧
      (t.obj 6).state = .free ∧ (t.obj 7).line = [] ∧
      notices 1 t = [.revoked 5 .deadline, .standing .barred 192, .revoked 6 .barred, .waitEnded 7 .barred] := by
  decide +kernel

/-- With settle 0 the waiter is granted after the holder's records. -/
theorem test_deadline_grants :
    let t := after (.deadline 5) (withObject (deadlineDue (exclusiveRec 1 [entry 3 .exclusive 1])))
    (t.obj 5).holders = single 3 ∧ (t.obj 5).line = [] ∧ (t.obj 5).revokeCount = 1 ∧ t.poolFree = 96 ∧
      notices 1 t = [.revoked 5 .deadline] ∧ notices 3 t = [.granted 5 .exclusive 7] := by decide +kernel

theorem test_deadline :
    let t := after (.deadline 5) (withObject (deadlineDue { exclusiveRec 1 [] with settle := 3 }))
    (t.obj 5).state = .settling ∧ (t.obj 5).revokeCount = 1 ∧ (t.mst 1).score = 24 ∧
      notices 1 t = [.revoked 5 .deadline] ∧ notices 0 t = [.faultDeadline 1 5] := by decide

/-- A deadline that bars its holder: the cascade follows. -/
theorem test_deadline_bars :
    let t := after (.deadline 5) (State.scored (withObject (deadlineDue (exclusiveRec 1 [entry 3 .exclusive 1]))) 1 168)
    (t.mst 1).standing = .barred ∧ (t.mst 1).score = 192 ∧ (t.obj 5).holders = single 3 ∧
      notices 1 t = [.revoked 5 .deadline, .standing .barred 192] ∧
      notices 0 t = [.faultDeadline 1 5, .faultBarred 1] := by decide +kernel

/-- A settling object that owes the fall from 1. -/
def settleDue (line : List Entry) : ObjectRec :=
  { settlingRec 1 line with owed := { settle := true, yield := false, tenure := false } }

theorem witness_SettleExpiryResumesHandover :
    ∀ line ∈ [[], [entry 3 .shared 1]], ((withObject (settleDue line)).obj 5).settleFallsOut = true := by decide

/-- An object in its row of Table 1-2, with a SHARED batch of two and an entry left. -/
theorem witness_SettleExpiryResumesHandover_batch :
    let r := (withObject (settleDue [entry 3 .shared 3, entry 2 .shared 3, entry 4 .exclusive 1])).obj 5
    r.settleFallsOut = true ∧ r.Row ∧ r.state = .settling :=
  ⟨by decide, ⟨rfl, rfl, rfl, 1, rfl, by decide⟩, rfl⟩

/-- The batch of two is granted, and asked to yield at a floor of 0. -/
theorem test_settleExpiry_grants_the_batch :
    let t := after (.settleExpiry 5) (withObject (settleDue [entry 3 .shared 3, entry 2 .shared 3, entry 4 .exclusive 1]))
    (t.obj 5).holders = 0x0C ∧ (t.obj 5).grantCount = 2 ∧ (t.obj 5).line = [entry 4 .exclusive 1] ∧ t.poolFree = 95 ∧
      notices 3 t = [.granted 5 .shared 7, .yieldAsked 5 .contention 16] := by decide

theorem test_settleExpiry :
    let t := after (.settleExpiry 5) (withObject (settleDue []))
    let u := after (.settleExpiry 5) (withObject (settleDue [entry 3 .shared 1]))
    (t.obj 5).state = .free ∧ notices 6 t = [.freed 5] ∧ (u.obj 5).state = .heldShared ∧
      (u.obj 5).watchers = single 6 ∧ notices 3 u = [.granted 5 .shared 7] ∧ u.poolFree = 96 := by decide

/-- A line whose second entry owes the fall of its wait from 1. -/
def waitDue : ObjectRec :=
  exclusiveRec 1 [entry 3 .exclusive 9, { entry 2 .exclusive 2 with waitRemaining := some 1, due := true }]

theorem witness_WaitLimitExpiryEndsWait :
    (withObject waitDue).entryDue 5 2 = true ∧ LineDistinct ((withObject waitDue).obj 5).line := by
  unfold LineDistinct; decide

theorem test_waitLimitExpiry :
    let t := after (.waitLimitExpiry 5 2) (withObject waitDue)
    (t.obj 5).line = [entry 3 .exclusive 9] ∧ t.poolFree = 95 ∧ notices 2 t = [.waitEnded 5 .expired] ∧
      (t.mst 2).score = 0 := by decide

/-- A held object that owes the rise of its tenure from 3 to 4. -/
def tenureDue (r : ObjectRec) : ObjectRec := { r with owed := { settle := false, yield := false, tenure := true } }

/-- The same with a yield pending, its fall from `n` owed too. -/
def yieldDue (n : BitVec 8) (r : ObjectRec) : ObjectRec :=
  { r with
    yieldPending := some { remaining := n, reason := .contention }
    owed := { settle := false, yield := true, tenure := true } }

/-- With no yield pending, and with one whose fall is owed, at its least count, and not owed; the first and the last
with a floor reached at the same rise. -/
theorem witness_CeilingAsksYield :
    ∀ r ∈ [tenureDue { exclusiveRec 1 [] with ceiling := 4, floor := 4 }, yieldDue 2 { exclusiveRec 1 [] with ceiling := 4 },
        { yieldDue 5 { exclusiveRec 1 [] with ceiling := 4, floor := 4 } with
          owed := { settle := false, yield := false, tenure := true } }],
      let q := (withObject r).obj 5
      q.reachesCeiling = true ∧ q.yieldFallsOut = false ∧ q.owed.settle = false ∧
        (q.floor = 4 → q.reachesFloor = true) := by decide

/-- A pending yield outlives the ceiling and the floor, one TU shorter, and nothing is posted. -/
theorem test_tenure_marks_leave_a_pending_yield :
    let t := after (.tenureReachesCeiling 5) (withObject (yieldDue 2 { exclusiveRec 1 [] with ceiling := 4 }))
    let u := after (.tenureReachesFloor 5) (withObject (yieldDue 2 { exclusiveRec 1 [entry 3 .shared 1] with floor := 4 }))
    (t.obj 5).yieldPending = some { remaining := 1, reason := .contention } ∧ notices 1 t = [] ∧
      (u.obj 5).yieldPending = some { remaining := 1, reason := .contention } ∧ (u.obj 5).tenure = 4 ∧
      notices 1 u = [] := by decide

theorem test_tenureReachesCeiling :
    let t := after (.tenureReachesCeiling 5) (withObject (tenureDue { exclusiveRec 1 [] with ceiling := 4 }))
    (t.obj 5).tenure = 4 ∧ (t.obj 5).yieldPending = some { remaining := 16, reason := .ceiling } ∧
      notices 1 t = [.yieldAsked 5 .ceiling 16] := by decide

/-- With a waiter, with none, with contention yield off, and with a yield pending. -/
theorem witness_FloorMakesContentionTest :
    ∀ r ∈ [tenureDue { exclusiveRec 1 [entry 3 .shared 1] with floor := 4 },
        tenureDue { exclusiveRec 1 [] with floor := 4 },
        tenureDue { exclusiveRec 1 [entry 3 .shared 1] with floor := 4, contentionYield := false },
        yieldDue 2 { exclusiveRec 1 [entry 3 .shared 1] with floor := 4 }],
      let q := (withObject r).obj 5
      q.reachesFloor = true ∧ q.reachesCeiling = false ∧ q.isHeld = true ∧ q.yieldFallsOut = false ∧
        q.owed.settle = false := by decide

theorem test_tenureReachesFloor :
    let t := after (.tenureReachesFloor 5) (withObject (tenureDue { exclusiveRec 1 [entry 3 .shared 1] with floor := 4 }))
    let u := after (.tenureReachesFloor 5) (withObject (tenureDue { exclusiveRec 1 [] with floor := 4 }))
    (t.obj 5).tenure = 4 ∧ notices 1 t = [.yieldAsked 5 .contention 16] ∧ (u.obj 5).tenure = 4 ∧
      (u.obj 5).yieldPending = none := by decide

/-- Objects that owe one event and are offered the row of another: a floor owed with a yield pending that has 2 left, a
ceiling owed without one, a deadline owed at the floor, a settle expiry owed, and a deadline owed with an entry that is
not due; and an object that owes nothing. -/
theorem witness_ExpiryNotOwedDoesNotOccur :
    let floor := (withObject (yieldDue 2 { exclusiveRec 1 [] with floor := 4 })).obj 5
    let ceiling := (withObject (tenureDue { exclusiveRec 1 [] with ceiling := 4 })).obj 5
    let deadline := withObject (deadlineDue { exclusiveRec 1 [entry 2 .exclusive 1] with floor := 4, ceiling := 4 })
    let settle := (withObject (settleDue [])).obj 5
    (floor.reachesFloor = true ∧ floor.yieldFallsOut = false ∧ floor.settleFallsOut = false ∧
        floor.reachesCeiling = false) ∧
      (ceiling.reachesCeiling = true ∧ ceiling.yieldFallsOut = false ∧ ceiling.reachesFloor = false) ∧
      ((deadline.obj 5).yieldFallsOut = true ∧ (deadline.obj 5).reachesFloor = true ∧
        (deadline.obj 5).reachesCeiling = true ∧ deadline.entryDue 5 2 = false) ∧
      (settle.settleFallsOut = true ∧ settle.yieldFallsOut = false ∧ settle.reachesFloor = false) ∧
      (exclusiveRec 1 []).owed = Owed.none ∧ (withObject waitDue).entryDue 5 3 = false ∧
      (withObject waitDue).entryDue 5 2 = true := by decide

/-- A DEADLINE, a SETTLE_EXPIRY and a TENURE_REACHES_CEILING offered where the floor alone is owed, and a
TENURE_REACHES_FLOOR where a deadline is, change no record. -/
theorem test_expiry_of_another_row :
    let floor := withObject (yieldDue 2 { exclusiveRec 1 [] with floor := 4 })
    let deadline := withObject (deadlineDue { exclusiveRec 1 [] with floor := 4 })
    after (.deadline 5) floor = floor ∧ after (.settleExpiry 5) floor = floor ∧
      after (.tenureReachesCeiling 5) floor = floor ∧ after (.tenureReachesFloor 5) deadline = deadline ∧
      after (.waitLimitExpiry 5 3) (withObject waitDue) = withObject waitDue := by
  refine ⟨rfl, rfl, rfl, rfl, rfl⟩

/-- A running part with a settle expiry, and with a deadline, outstanding, and a SET_TIME_BASE by a supervisor. -/
theorem witness_OutstandingExpiriesAllTaken :
    let s := State.running (withObject (settleDue []))
    let u := State.running (withObject (deadlineDue (exclusiveRec 1 [])))
    s.timeBase.runState = .running ∧ s.outstanding = [.object 5] ∧ s.resetAsserted = false ∧
      (s.mst 0).supervisor = true ∧ 0x00010004#32 &&& ~~~0x0001FFFF#32 = 0 ∧ (s.obj 5).settleFallsOut = true ∧
      (u.obj 5).settleFallsOut = false ∧ (u.obj 5).yieldFallsOut = true ∧
      (withObject waitDue).entryDue 5 2 = true ∧
      ((withObject (tenureDue { exclusiveRec 1 [] with ceiling := 4 })).obj 5).settleFallsOut = false ∧
      ((withObject (tenureDue { exclusiveRec 1 [] with ceiling := 4 })).obj 5).reachesCeiling = true ∧
      ((withObject (tenureDue { exclusiveRec 1 [] with floor := 4 })).obj 5).yieldFallsOut = false ∧
      ((withObject (tenureDue { exclusiveRec 1 [] with floor := 4 })).obj 5).reachesFloor = true := by decide +kernel

/-! ### The bus port -/

theorem witness_ResetHoldsOffAccesses :
    let s := after .reset (withObject freeRec)
    isBusAccess (.claim 2 0x5#32) = true ∧ isBusAccess (.observation 2 addr .read) = true ∧
      s.resetAsserted = true := by decide

theorem test_reset_and_release :
    let s := after .reset (withObject freeRec)
    (s.obj 5).state = .offline ∧ (s.mst 0).supervisor = true ∧ (s.mst 1).supervisor = false ∧
      (after .resetRelease s).resetAsserted = false := by decide

theorem witness_RegisterWriteStores :
    State.reset.resetAsserted = false ∧ wordAt 0xFC ≠ wordAt 0x04 ∧ wordAt 0xFC ≠ wordAt 0x08 ∧
      wordAt 0xFC ≠ wordAt 0x1C ∧ isCommandOffset (wordAt 0xFC) = false ∧ 7#4 ≠ 15#4 := by decide

theorem test_registerWrite :
    ((after (.registerWrite 2 (wordAt 0x04) 15#4 0xDEADBEEF#32) State.reset).port 2).operandA = 0xDEADBEEF#32 ∧
      ((after (.registerWrite 2 (wordAt 0x1C) 15#4 0xFFFEFFFF#32) State.reset).port 2).viewSelect =
        { kind := .master, index := 63, position := 15 } ∧
      ((after (.registerWrite 2 (wordAt 0x08) 7#4 1#32) State.reset).port 2).operandB = 0 := by decide

theorem test_registerWrite_at_a_port_is_the_command :
    result 2 (after (.registerWrite 2 (wordAt 0x80) 15#4 0x5#32) (withObject freeRec)) = ResultRec.granted 5 ∧
      result 2 (after (.registerWrite 2 (wordAt 0x80) 14#4 0x5#32) (withObject freeRec)) = PortRec.reset.result := by
  decide

/-- Each kind of view, the last numbers that select a master and a window and the first that select none, and a read at
another offset. -/
theorem witness_ReadView0TakesSnapshot :
    let select := fun v => ((State.reset.modPort 2 fun p => { p with viewSelect := v }).port 2).viewSelect
    State.reset.resetAsserted = false ∧ (State.reset.port 2).viewSelect.kind = .object ∧
      (select { kind := .master, index := 8, position := 0 }).kind = .master ∧
      8 ≤ (select { kind := .master, index := 8, position := 0 }).index.toNat ∧
      16 ≤ (select { kind := .guardWindow, index := 16, position := 0 }).index.toNat ∧
      (select { kind := .lineEntry, index := 5, position := 1 }).kind = .lineEntry ∧
      (7 : Master).val = (select { kind := .master, index := 7, position := 0 }).index.toNat ∧
      (15 : WindowNum).val = (select { kind := .guardWindow, index := 15, position := 0 }).index.toNat ∧
      wordAt 0x24 ≠ wordAt 0x20 := by decide

/-- A read of POOL_FREE is acknowledged and drives its word; while RESET is asserted it is not answered. -/
theorem test_read_of_another_offset :
    after (.readView0 ⟨2, wordAt 0x44⟩) State.reset = { State.reset with ack := true, dataOut := some 96 } ∧
      (after (.readView0 ⟨2, wordAt 0x44⟩) { State.reset with resetAsserted := true }).dataOut = none ∧
      (after (.readView0 ⟨2, wordAt 0x44⟩) { State.reset with resetAsserted := true }).ack = false := by
  refine ⟨rfl, by decide, by decide⟩

/-- Object 5 HELD-EXCLUSIVE by master 1, SHAREABLE, contention yield on: state 2, bits 25 and 24, holder bit 13; tenure
3 in word 1, allowance 16 in word 2. -/
theorem test_readView0 :
    let s := (withObject (exclusiveRec 1 [])).modPort 2 fun p =>
      { p with viewSelect := { kind := .object, index := 5, position := 0 } }
    let t := after (.readView0 ⟨2, wordAt 0x20⟩) s
    t.dataOut = some 0x8B002000#32 ∧
      (t.port 2).snapshot =
        { word0 := 0x8B002000#32, word1 := 0x00030000#32, word2 := 0x00000010#32, word3 := 0 } := by decide

/-- An empty queue and log and ones that hold a record; a yield and a settle remaining, present and absent; an entry at
the last position of a line, and the positions 0 and one behind it; the first and the last offset without a register. -/
theorem witness_RegisterWordsFields :
    let r := { exclusiveRec 1 [entry 2 .shared 3] with yieldPending := some { remaining := 5, reason := .ceiling } }
    (State.reset.mst 2).queue = [] ∧ State.reset.log = [] ∧
      (attentive.mst 2).queue = { seq := 0, notice := .logPending } :: [] ∧
      ({ State.reset with log := [violation] } : State).log = violation :: [] ∧
      r.yieldPending = some { remaining := 5, reason := .ceiling } ∧ freeRec.yieldPending = none ∧
      (settlingRec 2 []).settleRemaining = some 2 ∧ freeRec.settleRemaining = none ∧ (1 : BitVec 4) ≠ 0 ∧
      r.line[(1 : BitVec 4).toNat - 1]? = some (entry 2 .shared 3) ∧ r.line.length < (2 : BitVec 4).toNat ∧
      0x48 ≤ 4 * (wordAt 0x48).toNat ∧ 0x48 ≤ 4 * (wordAt 0xFC).toNat := by decide

/-- Reads of a command port and of an unassigned offset. -/
theorem test_read_of_no_register :
    (after (.readView0 ⟨2, wordAt 0x80⟩) attentive).dataOut = some 0 ∧
      (after (.readView0 ⟨2, wordAt 0x48⟩) attentive).dataOut = some 0 := by decide

/-- RESULT of a claim refused BUSY on object 5: outcome 4, reason 8, echo 5; EVENT_HEAD_0 of one GRANTED(SHARED) record
numbered 0 for object 5: valid, kind 1, detail 1, object valid, object 5, length 1. -/
theorem test_register_words :
    (after (.claim 2 0x5#32) (withObject (exclusiveRec 1 []))).readWindow 2 (wordAt 0x0C) = 0x00000544#32 ∧
      (State.reset.post 2 (.granted 5 .shared 7)).readWindow 2 (wordAt 0x10) = 0x89008501#32 ∧
      (State.reset.post 2 (.granted 5 .shared 7)).readWindow 2 (wordAt 0x14) = 0x00000700#32 ∧
      State.reset.readWindow 2 (wordAt 0x44) = 96#32 := by decide

/-! ### Rules of the whole part -/

theorem witness_BanksArePrivate :
    exec (.watch 2 0x5#32) State.reset = .next (after (.watch 2 0x5#32) State.reset) ∧ Instr.watch 2 0x5#32 ≠ .reset ∧
      windowAccess (.watch 2 0x5#32) ≠ some 3 ∧ (portWrite (.watch 2 0x5#32)).isSome = true := by
  refine ⟨rfl, by decide, by decide, by decide⟩

theorem witness_SettingsChangeByOwnCommand :
    Instr.wellFormed (.watch 2 0x5#32) = true ∧
      exec (.watch 2 0x5#32) State.reset = .next (after (.watch 2 0x5#32) State.reset) ∧
      Instr.watch 2 0x5#32 ≠ .reset ∧ (∀ m w, Instr.watch 2 0x5#32 ≠ .configGuard m w) ∧
      (∀ m w, Instr.watch 2 0x5#32 ≠ .configObject m w) ∧ (∀ m w, Instr.watch 2 0x5#32 ≠ .setQuota m w) ∧
      (∀ m w, Instr.watch 2 0x5#32 ≠ .setSupervisor m w) ∧ (∀ m w, Instr.watch 2 0x5#32 ≠ .setAttention m w) ∧
      (∀ m w, Instr.watch 2 0x5#32 ≠ .ackLog m w) ∧ ∀ m a d, Instr.watch 2 0x5#32 ≠ .observation m a d := by
  refine ⟨by decide, rfl, by decide, ?_, ?_, ?_, ?_, ?_, ?_, ?_⟩ <;> intros <;> exact Instr.noConfusion

/-- Object 5 in service and a claim of it waiting to be taken. -/
def claimPending : State := { withObject freeRec with pending := [.claim 2 0x5#32] }

theorem claimPending_obj (o : ObjNum) : claimPending.obj o = if o = 5 then freeRec else ObjectRec.reset := by
  revert o; decide +kernel

theorem resetRec_inv : ObjectRec.reset.Inv where
  row := ⟨rfl, rfl, rfl, rfl, rfl, rfl⟩
  owed := by unfold ObjectRec.OwedCounts; decide
  lineOrdered := List.Pairwise.nil
  lineDistinct := List.Pairwise.nil
  noHolderWaits := by decide
  allowance := by decide
  yieldRemaining := by intro y h; cases h
  waitRemaining := by decide
  dueAtOne := by decide
  exclusiveOnly := by decide

theorem freeRec_inv : freeRec.Inv where
  row := ⟨rfl, rfl, rfl, rfl, rfl, rfl⟩
  owed := by unfold ObjectRec.OwedCounts; decide
  lineOrdered := List.Pairwise.nil
  lineDistinct := List.Pairwise.nil
  noHolderWaits := by decide
  allowance := by decide
  yieldRemaining := by intro y h; cases h
  waitRemaining := by decide
  dueAtOne := by decide
  exclusiveOnly := by decide

/-- A state with a command waiting that meets the invariant, for the statements about every step. -/
theorem witness_StepKeepsInv : claimPending.Inv ∧ step claimPending = .next (after (.claim 2 0x5#32) (withObject freeRec)) := by
  refine ⟨?_, rfl⟩
  exact
    { objects := fun o => by
        rw [claimPending_obj]; split
        · exact freeRec_inv
        · exact resetRec_inv
      pool := by unfold State.PoolConserved; decide +kernel
      queues := by unfold State.QueuesBounded; decide +kernel
      supervisor := ⟨0, by decide⟩
      standing := by unfold State.StandingFromScore; decide +kernel
      quotas := by unfold State.QuotasBounded; decide +kernel
      waits := by unfold State.WaitsBounded; decide +kernel
      barred := by unfold State.BarredHoldsNothing; decide +kernel
      log := by unfold State.LogBounded; decide +kernel
      period := by unfold State.PeriodBounded; decide
      stopped := by unfold State.StoppedOwesNothing; decide +kernel }

theorem witness_StepKeepsPoolConserved :
    claimPending.PoolConserved ∧ step claimPending = .next (after (.claim 2 0x5#32) (withObject freeRec)) :=
  ⟨witness_StepKeepsInv.1.pool, rfl⟩

theorem witness_StepKeepsQueuesAndSupervisor :
    step claimPending = .next (after (.claim 2 0x5#32) (withObject freeRec)) ∧ claimPending.QueuesBounded ∧
      claimPending.HasSupervisor :=
  ⟨rfl, witness_StepKeepsInv.1.queues, witness_StepKeepsInv.1.supervisor⟩

end Sys2Proof.Machine.Tests
end

section
/-! PROOFS. CLAIM: how an admitted claim is taken, and the claim that may not wait (R27 to R31). -/

namespace Sys2Proof.Machine

/-! ### The checks of a CLAIM -/

/-- A claim that meets none of the six conditions of R27 is admitted. -/
theorem firstFailing_claimChecks_eq_none {m : Master} {w : Word} {s : State}
    (wellFormed : claimMalformed w (s.port m).operandA = false) (notBarred : (s.mst m).standing ≠ .barred)
    (notOffline : (s.obj (objectField w)).state ≠ .offline)
    (notHolder : isMember (s.obj (objectField w)).holders m = false)
    (notWaiting : s.isWaiting m (objectField w) = false)
    (modeAllowed : claimMode w = .shared → (s.obj (objectField w)).objClass = .shareable) :
    firstFailing (claimChecks m w s) = none := by
  have mode : (claimMode w == .shared && (s.obj (objectField w)).objClass == .exclusiveOnly) = false := by
    cases sharedMode : claimMode w with
    | exclusive => rfl
    | shared => rw [modeAllowed sharedMode]; rfl
  simp [firstFailing_eq_none, claimChecks, wellFormed, notBarred, notOffline, notHolder, notWaiting, mode]

/-- A claim that passes the checks of R27 is acknowledged and answered by R28 to R33. -/
theorem exec_claim_of_admitted {m : Master} {w : Word} {s : State} (released : s.resetAsserted = false)
    (admitted : firstFailing (claimChecks m w s) = none) :
    exec (.claim m w) s = .next (claimAdmitted m w s.acknowledged) :=
  calc exec (.claim m w) s = answerWindow s (claim m w) := rfl
    _ = .next (claim m w s.acknowledged) := answerWindow_of_released released _
    _ = .next (claimAdmitted m w s.acknowledged) := congrArg _ (State.checked_of_none admitted _)

/-! ### An admitted CLAIM -/

/-- The two ways to be granted at the write are those of R28. -/
theorem ObjectRec.grantable_iff (r : ObjectRec) (mode : Mode) :
    r.Grantable mode ↔ r.state = .free ∨ r.joinable mode = true := by
  simp [Grantable, joinable, and_assoc]

/-- On a FREE object an admitted claim is granted at once (R29). -/
theorem claimAdmitted_of_free {m : Master} {w : Word} {s : State} (free : (s.obj (objectField w)).state = .free) :
    claimAdmitted m w s =
      (grantAtOnce m (claimMode w) (objectField w) s).answer m (ResultRec.granted (objectEcho w)) := by
  simp [claimAdmitted, free]

/-- On an object not grantable an admitted claim comes to the checks of a claim that may wait (R31, R32). -/
theorem claimAdmitted_of_not_grantable {m : Master} {w : Word} {s : State}
    (h : ¬ (s.obj (objectField w)).Grantable (claimMode w)) :
    claimAdmitted m w s = s.checked m (objectEcho w) (waitChecks m w s) fun s =>
      (queueClaim m w s).answer m
        (ResultRec.queued (objectEcho w) (insertPosition (claimEntry m w s).priority (s.obj (objectField w)).line)) := by
  obtain ⟨notFree, notJoinable⟩ := not_or.mp (mt (ObjectRec.grantable_iff _ _).mpr h)
  simp [claimAdmitted, notFree, notJoinable]

/-- With the wait flag clear, BUSY comes before the reasons of standing, quota and pool (R31). -/
theorem firstFailing_waitChecks_of_noWait {m : Master} {w : Word} {s : State} (noWait : claimWait w = false) :
    firstFailing (waitChecks m w s) = some .busy := by
  simp [waitChecks, firstFailing_cons, noWait]

/-- An admitted claim with the wait flag clear on an object not grantable is refused BUSY (R31). -/
theorem claimAdmitted_of_noWait {m : Master} {w : Word} {s : State}
    (h : ¬ (s.obj (objectField w)).Grantable (claimMode w)) (noWait : claimWait w = false) :
    claimAdmitted m w s = s.refuse m .busy (objectEcho w) := by
  rw [claimAdmitted_of_not_grantable h, State.checked_of_some (firstFailing_waitChecks_of_noWait noWait)]

/-! ### The statement -/

/-- Settles O7: the claim is admitted, and then the object is not grantable, where BUSY is the first check to fail, or
FREE, where the claim is granted at once. -/
theorem claimNoWaitRefusedBusy : Obligations.ClaimNoWaitRefusedBusy := by
  intro m w s released wellFormed notBarred notOffline notHolder notWaiting modeAllowed noWait
  have taken : exec (.claim m w) s = .next (claimAdmitted m w s.acknowledged) :=
    exec_claim_of_admitted released
      (firstFailing_claimChecks_eq_none wellFormed notBarred notOffline notHolder notWaiting modeAllowed)
  constructor
  · intro notGrantable
    rw [taken, claimAdmitted_of_noWait (s := s.acknowledged) notGrantable noWait]
    rfl
  · intro free
    refine ⟨_, taken, ?_⟩
    rw [claimAdmitted_of_free (s := s.acknowledged) free, State.answer_port_self]
    rfl

end Sys2Proof.Machine
end

section
/-! PROOFS. WITHDRAW: the one entry of a master in a line, the waits it holds, and the withdrawal of its entry (R49,
R55, R56, R62). -/

namespace Sys2Proof.Machine

/-! ### The entries of one master in a line -/

/-- A line in which no master stands twice lists its masters without repeats (R4). -/
theorem lineDistinct_iff_nodup (line : List Entry) : LineDistinct line ↔ (line.map Entry.master).Nodup :=
  List.pairwise_map.symm

/-- The entries of `m` in a line are the occurrences of `m` among the line's masters. -/
theorem countP_master_eq_count (line : List Entry) (m : Master) :
    (line.countP fun e => e.master == m) = (line.map Entry.master).count m := by
  rw [List.count, List.countP_map]; rfl

/-- A master waits on an object just when it is among the masters of the line. -/
theorem State.isWaiting_iff_mem (s : State) (m : Master) (o : ObjNum) :
    s.isWaiting m o = true ↔ m ∈ (s.obj o).line.map Entry.master := by
  simp [isWaiting]

/-- A master that waits on an object has one entry there, if no master has two (R4). -/
theorem State.countP_master_eq_one {s : State} {m : Master} {o : ObjNum} (waiting : s.isWaiting m o = true)
    (distinct : LineDistinct (s.obj o).line) : ((s.obj o).line.countP fun e => e.master == m) = 1 := by
  rw [countP_master_eq_count]
  exact List.count_eq_one_of_mem ((lineDistinct_iff_nodup _).mp distinct) ((s.isWaiting_iff_mem m o).mp waiting)

/-- With every entry of `m` taken out, none is left (R62). -/
theorem ObjectRec.dropWait_countP_master (r : ObjectRec) (m : Master) :
    ((r.dropWait m).line.countP fun e => e.master == m) = 0 := by
  rw [List.countP_eq_zero]
  intro e left
  have other : e.master ≠ m := of_decide_eq_true (List.mem_filter.mp left).2
  simpa using other

/-! ### Waits held -/

/-- A change of one object's record changes the waits held of `m` by its entries in that line (R49). -/
theorem State.modObj_waitsHeld (s : State) (o : ObjNum) (f : ObjectRec → ObjectRec) (m : Master) :
    (s.modObj o f).waitsHeld m + ((s.obj o).line.countP fun e => e.master == m) =
      s.waitsHeld m + (f (s.obj o)).line.countP fun e => e.master == m := by
  have terms : (allObjects.map fun p => ((s.modObj o f).obj p).line.countP fun e => e.master == m) =
      allObjects.map fun p =>
        if p = o then (f (s.obj o)).line.countP fun e => e.master == m
        else (s.obj p).line.countP fun e => e.master == m :=
    List.map_congr_left fun p _ => by rw [State.modObj_obj]; split <;> rfl
  have total := sum_map_update (fun p => (s.obj p).line.countP fun e => e.master == m) o
    ((f (s.obj o)).line.countP fun e => e.master == m) allObjects allObjects_nodup (mem_allObjects o)
  rw [← terms] at total
  exact total

/-- Two states with the same object records have the same waits held. -/
theorem State.waitsHeld_congr {s t : State} (h : t.objects = s.objects) (m : Master) :
    t.waitsHeld m = s.waitsHeld m := by
  unfold waitsHeld State.obj; rw [h]

/-! ### The removal from a line -/

/-- A removal takes the master's entries out of the one line and returns them to the pool (R62). -/
theorem State.removeWaiter_eq (s : State) (o : ObjNum) (m : Master) :
    s.removeWaiter o m =
      (s.modObj o fun r => r.dropWait m).returnEntries ((s.obj o).line.countP fun e => e.master == m) := by
  have same : (fun e : Entry => e.master != m) = fun e => decide (e.master ≠ m) := by
    funext e; by_cases h : e.master = m <;> simp [h]
  unfold State.removeWaiter
  rw [same]
  rfl

/-- The entries a removal takes out are no longer among the master's waits held (R49, R62). -/
theorem State.removeWaiter_waitsHeld (s : State) (o : ObjNum) (m : Master) :
    (s.removeWaiter o m).waitsHeld m + ((s.obj o).line.countP fun e => e.master == m) = s.waitsHeld m := by
  calc (s.removeWaiter o m).waitsHeld m + (s.obj o).line.countP (fun e => e.master == m)
      = (s.modObj o fun r => r.dropWait m).waitsHeld m + (s.obj o).line.countP (fun e => e.master == m) := by
        rw [s.removeWaiter_eq, waitsHeld_congr (State.returnEntries_objects _ _)]
    _ = s.waitsHeld m + ((s.obj o).dropWait m).line.countP (fun e => e.master == m) := s.modObj_waitsHeld o _ m
    _ = s.waitsHeld m := by rw [ObjectRec.dropWait_countP_master, Nat.add_zero]

/-! ### WITHDRAW -/

/-- A WITHDRAW that passes the checks of R55 is acknowledged, removes the writer from the line and answers DONE. -/
theorem exec_withdraw_of_waiting {m : Master} {w : Word} {s : State} (released : s.resetAsserted = false)
    (wellFormed : bitsOutside w objectMask = false) (waiting : s.isWaiting m (objectField w) = true) :
    exec (.withdraw m w) s =
      .next ((s.acknowledged.removeWaiter (objectField w) m).answer m (ResultRec.done (objectEcho w))) := by
  have passes : firstFailing (withdrawChecks m w s.acknowledged) = none := by
    have stillWaiting : s.acknowledged.isWaiting m (objectField w) = true := waiting
    simp [firstFailing_eq_none, withdrawChecks, wellFormed, stillWaiting]
  calc exec (.withdraw m w) s = answerWindow s (withdraw m w) := rfl
    _ = .next (withdraw m w s.acknowledged) := answerWindow_of_released released _
    _ = _ := congrArg _ (State.checked_of_none passes _)

/-- Settles O14: the removal takes out every entry of the writer, and in a line without repeats that is one. -/
theorem withdrawRemovesEntry : Obligations.WithdrawRemovesEntry := by
  intro m w s released wellFormed waiting distinct
  have one : ((s.acknowledged.obj (objectField w)).line.countP fun e => e.master == m) = 1 :=
    State.countP_master_eq_one waiting distinct
  refine ⟨_, exec_withdraw_of_waiting released wellFormed waiting, ?_, ?_⟩
  · rw [State.removeWaiter_eq, one]
    rfl
  · have held := s.acknowledged.removeWaiter_waitsHeld (objectField w) m
    rw [one] at held
    rw [State.waitsHeld_congr (State.answer_objects _ _ _), held]
    exact State.waitsHeld_congr (State.acknowledged_objects s) m

end Sys2Proof.Machine
end

section
/-! PROOFS. READMIT: a SET_STANDING that passes its checks, and the readmission of the named master (R100, R101). -/

namespace Sys2Proof.Machine

/-! ### Changes of one master's record -/

/-- Only what a change does to the record it is made to matters. -/
theorem State.modMst_congr {s : State} {m : Master} {f g : MasterRec → MasterRec} (h : f (s.mst m) = g (s.mst m)) :
    s.modMst m f = s.modMst m g := by
  unfold State.modMst
  rw [h]

/-- Two changes of one master's record, one after the other, are one change. -/
theorem State.modMst_modMst (s : State) (m : Master) (f g : MasterRec → MasterRec) :
    (s.modMst m f).modMst m g = s.modMst m fun r => g (f r) := by
  simp [State.modMst, State.mst]

/-! ### SET_STANDING -/

/-- A SET_STANDING from a supervisor with a well-formed word of action READMIT passes its checks (R100, R104). -/
theorem firstFailing_setStanding_eq_none_of_readmit {m : Master} {w : Word} {s : State}
    (supervisor : (s.mst m).supervisor = true) (wellFormed : bitsOutside w standingMask = false)
    (isReadmit : standingAction w = actionReadmit) :
    firstFailing [(notSupervisor m s, .notPrivileged), (standingMalformed w, .badOperand)] = none := by
  simp [firstFailing_eq_none, notSupervisor, standingMalformed, supervisor, wellFormed, isReadmit]

/-- A SET_STANDING that passes its checks with action READMIT is acknowledged, readmits the named master and answers
DONE (R100). -/
theorem exec_readmit_of_admitted {m : Master} {w : Word} {s : State} (released : s.resetAsserted = false)
    (supervisor : (s.mst m).supervisor = true) (wellFormed : bitsOutside w standingMask = false)
    (isReadmit : standingAction w = actionReadmit) :
    exec (.readmit m w) s =
      .next ((readmitMaster (masterField w) s.acknowledged).answer m (ResultRec.done (masterEcho w))) := by
  have passes := firstFailing_setStanding_eq_none_of_readmit (s := s.acknowledged) supervisor wellFormed isReadmit
  have readmits : standingAdmitted w s.acknowledged = readmitMaster (masterField w) s.acknowledged := by
    simp [standingAdmitted, isReadmit]
  calc exec (.readmit m w) s = answerWindow s (setStanding m w) := rfl
    _ = .next (setStanding m w s.acknowledged) := answerWindow_of_released released _
    _ = .next ((standingAdmitted w s.acknowledged).answer m (ResultRec.done (masterEcho w))) :=
      congrArg _ (State.checked_of_none passes _)
    _ = _ := by rw [readmits]

/-! ### The readmission -/

/-- READMIT is one change of the named master's record: score 0, standing GOOD, and the posting of STANDING unless its
standing was GOOD before (R101). -/
theorem readmitMaster_eq_modMst (n : Master) (s : State) :
    readmitMaster n s = s.modMst n fun r =>
      let cleared := { r with score := 0, standing := .good }
      if r.standing = .good then cleared else cleared.post (.standing .good 0) := by
  by_cases good : (s.mst n).standing = .good
  · calc readmitMaster n s = s.modMst n fun r => { r with score := 0, standing := .good } := by
          simp [readmitMaster, good]
      _ = _ := State.modMst_congr (by simp [good])
  · calc readmitMaster n s
        = (s.modMst n fun r => { r with score := 0, standing := .good }).post n (.standing .good 0) := by
          simp [readmitMaster, good]
      _ = s.modMst n fun r => ({ r with score := 0, standing := .good } : MasterRec).post (.standing .good 0) :=
        s.modMst_modMst n _ _
      _ = _ := State.modMst_congr (by simp [good])

/-- Settles O24: the command passes its checks, and the readmission is the one change of the named master's record. -/
theorem readmitRestoresGood : Obligations.ReadmitRestoresGood := by
  intro m w s released supervisor wellFormed isReadmit
  rw [exec_readmit_of_admitted released supervisor wellFormed isReadmit, readmitMaster_eq_modMst]
  rfl

end Sys2Proof.Machine
end

section
/-! PROOFS. UNWATCH, CLEAR_OVERFLOW and SET_ATTENTION: the commands whose one check is the form of the port word, the
watch set, and the levels of the attention lines (R118, R119, R120, R123). -/

namespace Sys2Proof.Machine

/-! ### Commands whose one check is the form of the port word -/

/-- A word has bits outside a mask just when masking them leaves something (R24). -/
theorem bitsOutside_iff (w mask : Word) : bitsOutside w mask = true ↔ w &&& ~~~mask ≠ 0 := bne_iff_ne

/-- A command with one check, for a malformed word, is acknowledged, and then refused BAD_OPERAND or carried out (R22,
R24, R155). -/
theorem answerWindow_checked_badOperand {s : State} (released : s.resetAsserted = false) (m : Master)
    (echo : BitVec 6) (malformed : Bool) (f : State → State) :
    answerWindow s (fun s => s.checked m echo [(malformed, .badOperand)] f) =
      .next (if malformed then s.acknowledged.refuse m .badOperand echo else f s.acknowledged) := by
  rw [answerWindow_of_released released]
  cases malformed with
  | false => exact congrArg _ (State.checked_of_none rfl f)
  | true => exact congrArg _ (State.checked_of_some rfl f)

/-- An UNWATCH, taken (R123). -/
theorem exec_unwatch (m : Master) (w : Word) {s : State} (released : s.resetAsserted = false) :
    exec (.unwatch m w) s = .next (if bitsOutside w objectMask
      then s.acknowledged.refuse m .badOperand (objectEcho w)
      else (s.acknowledged.dropWatch m (objectField w)).answer m (ResultRec.done (objectEcho w))) :=
  calc exec (.unwatch m w) s = answerWindow s (unwatch m w) := rfl
    _ = _ := answerWindow_checked_badOperand released _ _ _ _

/-- A CLEAR_OVERFLOW, taken (R118). -/
theorem exec_clearOverflow (m : Master) (w : Word) {s : State} (released : s.resetAsserted = false) :
    exec (.clearOverflow m w) s = .next (if w != 0
      then s.acknowledged.refuse m .badOperand 0
      else (s.acknowledged.modMst m fun r => { r with overflow := false }).answer m (ResultRec.done 0)) :=
  calc exec (.clearOverflow m w) s = answerWindow s (clearOverflow m w) := rfl
    _ = _ := answerWindow_checked_badOperand released _ _ _ _

/-- A SET_ATTENTION, taken (R120). -/
theorem exec_setAttention (m : Master) (w : Word) {s : State} (released : s.resetAsserted = false) :
    exec (.setAttention m w) s = .next (if bitsOutside w attentionMask
      then s.acknowledged.refuse m .badOperand 0
      else (s.acknowledged.modMst m fun r => { r with attention := attentionSetting w }).answer m (ResultRec.done 0)) :=
  calc exec (.setAttention m w) s = answerWindow s (setAttention m w) := rfl
    _ = _ := answerWindow_checked_badOperand released _ _ _ _

/-! ### The watch set -/

/-- A change that leaves the object's record as it is leaves the part as it is. -/
theorem State.modObj_of_fixed {s : State} {o : ObjNum} {f : ObjectRec → ObjectRec} (h : f (s.obj o) = s.obj o) :
    s.modObj o f = s := by
  have unchanged : s.objects.set o.val (f (s.obj o)) = s.objects := by rw [h]; exact Vector.set_getElem_self _
  unfold State.modObj
  rw [unchanged]

/-- A master that is no member leaves the watch set without a change (R123). -/
theorem State.dropWatch_of_not_watcher {s : State} {m : Master} {o : ObjNum}
    (h : isMember (s.obj o).watchers m = false) : s.dropWatch m o = s :=
  State.modObj_of_fixed (by rw [removeMember_of_not_member h])

/-- The watch set of an object OFFLINE or FREE is empty (Table 1-2). -/
theorem ObjectRec.Row.watchers_eq_zero {r : ObjectRec} (row : r.Row) (h : r.state = .offline ∨ r.state = .free) :
    r.watchers = 0 := by
  unfold ObjectRec.Row at row
  obtain state | state := h
  all_goals
    rw [state] at row
    obtain ⟨-, -, -, -, -, watchers⟩ := row
    exact watchers

/-- Settles O16: the command is the removal from the watch set, and that changes nothing for a master that is no
member, as every master is where the set is empty. -/
theorem unwatchLeavesWatchSet : Obligations.UnwatchLeavesWatchSet := by
  intro m w s released
  constructor
  · intro malformed
    rw [exec_unwatch m w released, if_pos ((bitsOutside_iff w objectMask).mpr malformed)]
    rfl
  · intro wellFormed
    have stranger (h : isMember (s.obj (objectField w)).watchers m = false) :
        s.acknowledged.dropWatch m (objectField w) = s.acknowledged := State.dropWatch_of_not_watcher h
    refine ⟨s.acknowledged.dropWatch m (objectField w), ?_, rfl, stranger, fun row idle => stranger ?_⟩
    · rw [exec_unwatch m w released, if_neg (mt (bitsOutside_iff w objectMask).mp (not_not.mpr wellFormed))]
      rfl
    · rw [row.watchers_eq_zero idle]
      exact isMember_zero m

/-! ### The overflow flag -/

/-- Settles O18: the command with its one check is the statement's case split on the port word. -/
theorem clearOverflowClearsFlag : Obligations.ClearOverflowClearsFlag := by
  intro m w s released
  rw [exec_clearOverflow m w released]
  by_cases zero : w = 0
  · rw [if_pos zero, if_neg (by simpa using zero)]
    rfl
  · rw [if_neg zero, if_pos (bne_iff_ne.mpr zero)]
    rfl

/-! ### The attention lines -/

/-- With RESET released, a line is asserted just when its enable is on and its queue holds a record (R119). -/
theorem State.atn_iff {s : State} (released : s.resetAsserted = false) (m : Master) :
    s.atn m = true ↔ (s.mst m).attention = true ∧ (s.mst m).queue ≠ [] := by
  simp [State.atn, released]

/-- The level of a line depends on its master's record and the RESET input alone (R119). -/
theorem State.atn_congr {s t : State} {k : Master} (record : t.mst k = s.mst k)
    (input : t.resetAsserted = s.resetAsserted) : t.atn k = s.atn k := by
  unfold State.atn
  rw [record, input]

/-- Settles O19: the command is one change of the writer's record, so the writer's line follows R119 with the new
enable, and no other line's record is reached. -/
theorem setAttentionDrivesLine : Obligations.SetAttentionDrivesLine := by
  intro m w s released
  constructor
  · intro malformed
    rw [exec_setAttention m w released, if_pos ((bitsOutside_iff w attentionMask).mpr malformed)]
    rfl
  · intro wellFormed
    refine ⟨_, exec_setAttention m w released, ?_⟩
    rw [if_neg (mt (bitsOutside_iff w attentionMask).mp (not_not.mpr wellFormed))]
    refine ⟨rfl, ?_, fun k other => State.atn_congr ?_ rfl⟩
    · rw [State.atn_iff, State.answer_mst, State.modMst_mst_self]
      · rfl
      · exact released
    · rw [State.answer_mst, State.modMst_mst_ne _ other, State.acknowledged_mst]

end Sys2Proof.Machine
end

section
/-! PROOFS. CONFIG_GUARD: its two checks, and the window written from the three operand words (R127, R128). -/

namespace Sys2Proof.Machine

/-! ### The checks of a CONFIG_GUARD -/

/-- A word keeps to its fields just when masking them leaves nothing (R24). -/
theorem bitsOutside_eq_false_iff (w mask : Word) : bitsOutside w mask = false ↔ w &&& ~~~mask = 0 :=
  bne_eq_false_iff_eq

/-- CONFIG_GUARD's operands are well formed just when each of the three words keeps to its fields (R127). -/
theorem guardMalformed_eq_false_iff (w a b : Word) :
    guardMalformed w a b = false ↔
      w &&& ~~~guardMask = 0 ∧ a &&& ~~~granuleMask = 0 ∧ b &&& ~~~granuleMask = 0 := by
  simp only [guardMalformed, Bool.or_eq_false_iff, bitsOutside_eq_false_iff, and_assoc]

/-- A CONFIG_GUARD from a supervisor with well-formed operands passes its checks (R127). -/
theorem firstFailing_configGuard_eq_none {m : Master} {w : Word} {s : State}
    (supervisor : (s.mst m).supervisor = true)
    (wellFormed : guardMalformed w (s.port m).operandA (s.port m).operandB = false) :
    firstFailing [(notSupervisor m s, .notPrivileged),
      (guardMalformed w (s.port m).operandA (s.port m).operandB, .badOperand)] = none := by
  simp [firstFailing_eq_none, notSupervisor, supervisor, wellFormed]

/-! ### A CONFIG_GUARD that passes its checks -/

/-- A CONFIG_GUARD that passes its checks replaces the named window and answers DONE (R128). -/
theorem configGuard_of_admitted {m : Master} {w : Word} {s : State} (supervisor : (s.mst m).supervisor = true)
    (wellFormed : guardMalformed w (s.port m).operandA (s.port m).operandB = false) :
    configGuard m w s =
      (s.setWin (windowField w) (guardFields w (s.port m).operandA (s.port m).operandB)).answer m
        (ResultRec.done (windowEcho w)) := by
  unfold configGuard
  rw [State.checked_of_none (firstFailing_configGuard_eq_none supervisor wellFormed)]

/-- The command on the bus is acknowledged besides, with its operand words as they stood (R127, R155). -/
theorem exec_configGuard_of_admitted {m : Master} {w : Word} {s : State} (released : s.resetAsserted = false)
    (supervisor : (s.mst m).supervisor = true)
    (wellFormed : guardMalformed w (s.port m).operandA (s.port m).operandB = false) :
    exec (.configGuard m w) s =
      .next ((s.acknowledged.setWin (windowField w)
          (guardFields w (s.port m).operandA (s.port m).operandB)).answer m (ResultRec.done (windowEcho w))) :=
  calc exec (.configGuard m w) s = answerWindow s (configGuard m w) := rfl
    _ = .next (configGuard m w s.acknowledged) := answerWindow_of_released released _
    _ = _ := congrArg _ (configGuard_of_admitted (s := s.acknowledged) supervisor wellFormed)

/-- Settles O34: a supervisor's three well-formed words pass both checks, and the window written is the one that
the words' fields spell. -/
theorem configGuardWritesWindow : Obligations.ConfigGuardWritesWindow := by
  intro m w s released supervisor portWord operandA operandB
  have wellFormed := (guardMalformed_eq_false_iff _ _ _).mpr ⟨portWord, operandA, operandB⟩
  exact exec_configGuard_of_admitted released supervisor wellFormed

end Sys2Proof.Machine
end

section
/-! PROOFS. What a command can do, said once: a port write is refused or carried out, and every other row is one of a
few kinds of step. The rules of the whole part are read from here. -/

namespace Sys2Proof.Machine

/-! ### A command with its checks, on the bus -/

/-- A command that passes its checks is acknowledged and carried out (R22, R155). -/
theorem answerWindow_checked_of_none {s : State} (released : s.resetAsserted = false) {m : Master} {echo : BitVec 6}
    {checks : State → List (Bool × Reason)} {f : State → State} (passes : firstFailing (checks s.acknowledged) = none) :
    answerWindow s (fun s => s.checked m echo (checks s) f) = .next (f s.acknowledged) := by
  rw [answerWindow_of_released released, State.checked_of_none passes]

/-- A command with a failing check is acknowledged and refused with the first one's reason (R22, R155). -/
theorem answerWindow_checked_of_some {s : State} (released : s.resetAsserted = false) {m : Master} {echo : BitVec 6}
    {checks : State → List (Bool × Reason)} {f : State → State} {reason : Reason}
    (fails : firstFailing (checks s.acknowledged) = some reason) :
    answerWindow s (fun s => s.checked m echo (checks s) f) = .next (s.acknowledged.refuse m reason echo) := by
  rw [answerWindow_of_released released, State.checked_of_some fails]

/-! ### The check orders -/

/-- A CLAIM passes the six checks of R27. -/
theorem firstFailing_claimChecks_eq_none_iff {m : Master} {w : Word} {s : State} :
    firstFailing (claimChecks m w s) = none ↔
      claimMalformed w (s.port m).operandA = false ∧ (s.mst m).standing ≠ .barred ∧
        (s.obj (objectField w)).state ≠ .offline ∧ isMember (s.obj (objectField w)).holders m = false ∧
        s.isWaiting m (objectField w) = false ∧
        (claimMode w = .shared → (s.obj (objectField w)).objClass ≠ .exclusiveOnly) := by
  simp [firstFailing_eq_none, claimChecks]

/-- A claim that may wait passes the four checks of R31 and R32. -/
theorem firstFailing_waitChecks_eq_none_iff {m : Master} {w : Word} {s : State} :
    firstFailing (waitChecks m w s) = none ↔
      claimWait w = true ∧ (s.mst m).standing ≠ .restricted ∧ s.waitsHeld m < (s.mst m).quota.toNat ∧
        s.poolFree ≠ 0 := by
  simp [firstFailing_eq_none, waitChecks]

/-- A RELEASE passes the checks of R34. -/
theorem firstFailing_releaseChecks_eq_none_iff {m : Master} {w : Word} {s : State} :
    firstFailing (releaseChecks m w s) = none ↔
      bitsOutside w objectMask = false ∧ isMember (s.obj (objectField w)).holders m = true := by
  simp [firstFailing_eq_none, releaseChecks]

/-- A WATCH passes the checks of R122. -/
theorem firstFailing_watchChecks_eq_none_iff {m : Master} {w : Word} {s : State} :
    firstFailing (watchChecks m w s) = none ↔
      bitsOutside w objectMask = false ∧ (s.mst m).standing ≠ .barred ∧
        (s.obj (objectField w)).state ≠ .offline := by
  simp [firstFailing_eq_none, watchChecks]

/-- A CONFIG_OBJECT passes the checks of R10. -/
theorem firstFailing_configChecks_eq_none_iff {m : Master} {w : Word} {s : State} :
    firstFailing (configChecks m w s) = none ↔
      (s.mst m).supervisor = true ∧ configMalformed w (s.port m).operandA = false ∧
        (s.obj (objectField w)).state = .offline := by
  simp [firstFailing_eq_none, configChecks, notSupervisor]

/-- An ONLINE passes the checks of R12. -/
theorem firstFailing_onlineChecks_eq_none_iff {m : Master} {w : Word} {s : State} :
    firstFailing (onlineChecks m w s) = none ↔
      (s.mst m).supervisor = true ∧ bitsOutside w objectMask = false ∧ (s.obj (objectField w)).state = .offline := by
  simp [firstFailing_eq_none, onlineChecks, notSupervisor]

/-- An OFFLINE passes the checks of R13. -/
theorem firstFailing_offlineChecks_eq_none_iff {m : Master} {w : Word} {s : State} :
    firstFailing (offlineChecks m w s) = none ↔
      (s.mst m).supervisor = true ∧ bitsOutside w objectMask = false ∧ (s.obj (objectField w)).state ≠ .offline := by
  simp [firstFailing_eq_none, offlineChecks, notSupervisor]

/-- A REVOKE passes the checks of R86. -/
theorem firstFailing_revokeChecks_eq_none_iff {m : Master} {w : Word} {s : State} :
    firstFailing (revokeChecks m w s) = none ↔
      (s.mst m).supervisor = true ∧ bitsOutside w objectMask = false ∧
        (s.obj (objectField w)).isHeld = true := by
  simp [firstFailing_eq_none, revokeChecks, notSupervisor]

/-- A SET_SUPERVISOR passes the checks of R105. -/
theorem firstFailing_supervisorChecks_eq_none_iff {m : Master} {w : Word} {s : State} :
    firstFailing (supervisorChecks m w s) = none ↔
      (s.mst m).supervisor = true ∧ bitsOutside w supervisorMask = false ∧
        (supervisorSetting w = false → lastSupervisor (masterField w) s = false) := by
  simp [firstFailing_eq_none, supervisorChecks, notSupervisor]

/-- A supervisor command with one check besides the first passes both. -/
theorem firstFailing_supervisor_eq_none_iff {m : Master} {s : State} {malformed : Bool} :
    firstFailing [(notSupervisor m s, .notPrivileged), (malformed, .badOperand)] = none ↔
      (s.mst m).supervisor = true ∧ malformed = false := by
  simp [firstFailing_eq_none, notSupervisor]

/-! ### Port writes -/

/-- A port write that passes its checks and is work of the two tables takes `s` to the second state, but for the answer
it then writes. -/
inductive Works : Instr → State → State → Prop where
  | release {m w s} : firstFailing (releaseChecks m w s) = none →
    Works (.release m w) s (credit m (releaseHold m (objectField w) s))
  | withdraw {m w s} : Works (.withdraw m w) s (s.removeWaiter (objectField w) m)
  | unwatch {m w s} : Works (.unwatch m w) s (s.dropWatch m (objectField w))
  | ackEvent {m w s} : Works (.ackEvent m w) s (s.modMst m fun r => { r with queue := r.queue.tail })
  | clearOverflow {m w s} : Works (.clearOverflow m w) s (s.modMst m fun r => { r with overflow := false })
  | resetSelf {m w s} : Works (.resetSelf m w) s (clearing m s)
  | online {m w s} : firstFailing (onlineChecks m w s) = none →
    Works (.online m w) s (s.modObj (objectField w) fun r => { r with state := .free })
  | offline {m w s} :
    Works (.offline m w) s
      (offlineComplete (objectField w) (offlineLine (objectField w) (offlineHolders (objectField w) s)))
  | revoke {m w s} : firstFailing (revokeChecks m w s) = none →
    Works (.revoke m w) s (revokeHolders (objectField w) s)
  | readmit {m w s} : Works (.readmit m w) s (standingAdmitted w s)
  | bar {m w s} : Works (.bar m w) s (standingAdmitted w s)
  | clearMaster {m w s} :
    Works (.clearMaster m w) s ((clearing (masterField w) s).post (masterField w) (.cleared m))

/-- A port write that passes its checks and puts something new into a record, a master into a holder set or a watch set,
an entry into a line, a setting, or writes the log or the time base, takes `s` to the second state, but for the
answer. -/
inductive Sets : Instr → State → State → Prop where
  | claimGrant {m w s} : firstFailing (claimChecks m w s) = none → (s.obj (objectField w)).state = .free →
    Sets (.claim m w) s (grantAtOnce m (claimMode w) (objectField w) s)
  | claimJoin {m w s} : firstFailing (claimChecks m w s) = none →
    (s.obj (objectField w)).joinable (claimMode w) = true →
    Sets (.claim m w) s (sharedJoin m (objectField w) s)
  | claimQueue {m w s} : firstFailing (claimChecks m w s) = none →
    ¬ (s.obj (objectField w)).Grantable (claimMode w) → firstFailing (waitChecks m w s) = none →
    Sets (.claim m w) s (queueClaim m w s)
  | watch {m w s} : firstFailing (watchChecks m w s) = none →
    Sets (.watch m w) s (watchAdmitted m (objectField w) s)
  | setAttention {m w s} :
    Sets (.setAttention m w) s (s.modMst m fun r => { r with attention := attentionSetting w })
  | configObject {m w s} : firstFailing (configChecks m w s) = none →
    Sets (.configObject m w) s (s.modObj (objectField w) fun r => r.configure w (s.port m).operandA)
  | setQuota {m w s} : quotaMalformed w = false →
    Sets (.setQuota m w) s (s.modMst (masterField w) fun r => { r with quota := quotaField w })
  | setSupervisor {m w s} : firstFailing (supervisorChecks m w s) = none →
    Sets (.setSupervisor m w) s (s.modMst (masterField w) fun r => { r with supervisor := supervisorSetting w })
  | configGuard {m w s} :
    Sets (.configGuard m w) s
      (s.setWin (windowField w) (guardFields w (s.port m).operandA (s.port m).operandB))
  | ackLog {m w s} : Sets (.ackLog m w) s { s with log := s.log.tail }
  | setTimeBase {m w s} :
    Sets (.setTimeBase m w) s
      { takeOutstanding s with timeBase := (takeOutstanding s).timeBase.configure w }

/-- A port write that passes its checks is one of the two. -/
inductive Carried (i : Instr) (s u : State) : Prop where
  | works : Works i s u → Carried i s u
  | sets : Sets i s u → Carried i s u

/-- A port write by `m` ends refused, or carried out and answered otherwise (R22). -/
inductive Answered (i : Instr) (m : Master) (s : State) : State → Prop where
  | refused (reason : Reason) (echo : BitVec 6) : Answered i m s (s.refuse m reason echo)
  | carried {u : State} {r : ResultRec} : Carried i s u → r.outcome ≠ .refused → Answered i m s (u.answer m r)

/-- A check order leads to one of the two ends. -/
theorem Answered.of_checked {i : Instr} {m : Master} {s : State} {echo : BitVec 6} {checks : List (Bool × Reason)}
    {f : State → State} (h : firstFailing checks = none → Answered i m s (f s)) :
    Answered i m s (s.checked m echo checks f) := by
  cases fails : firstFailing checks with
  | none => rw [State.checked_of_none fails]; exact h fails
  | some reason => rw [State.checked_of_some fails]; exact .refused reason echo

/-- An admitted claim is granted at once, joins, or comes to the checks of a claim that may wait (R28). -/
theorem answered_claimAdmitted {m : Master} {w : Word} {s : State} (passes : firstFailing (claimChecks m w s) = none) :
    Answered (.claim m w) m s (claimAdmitted m w s) := by
  unfold claimAdmitted
  dsimp only
  split
  · rename_i free
    exact .carried (.sets (.claimGrant passes (by simpa using free))) nofun
  · rename_i notFree
    split
    · rename_i joins
      exact .carried (.sets (.claimJoin passes joins)) nofun
    · rename_i notJoins
      have notGrantable : ¬ (s.obj (objectField w)).Grantable (claimMode w) := by
        rw [ObjectRec.grantable_iff]; simp_all
      exact .of_checked fun waits => .carried (.sets (.claimQueue passes notGrantable waits)) nofun

/-- Every port write is acknowledged, and then refused or carried out (R22, R155). -/
theorem exec_portWrite {i : Instr} {m : Master} {w : Word} {s : State} (port : portWrite i = some (m, w))
    (released : s.resetAsserted = false) : ∃ t, exec i s = .next t ∧ Answered i m s.acknowledged t := by
  have taken {f : State → State} (h : Answered i m s.acknowledged (f s.acknowledged)) :
      ∃ t, answerWindow s f = .next t ∧ Answered i m s.acknowledged t :=
    ⟨_, answerWindow_of_released released f, h⟩
  cases i <;> cases port
  case claim => exact taken (.of_checked answered_claimAdmitted)
  case release => exact taken (.of_checked fun passes => .carried (.works (.release passes)) nofun)
  case withdraw => exact taken (.of_checked fun _ => .carried (.works .withdraw) nofun)
  case watch => exact taken (.of_checked fun passes => .carried (.sets (.watch passes)) nofun)
  case unwatch => exact taken (.of_checked fun _ => .carried (.works .unwatch) nofun)
  case ackEvent => exact taken (.of_checked fun _ => .carried (.works .ackEvent) nofun)
  case clearOverflow => exact taken (.of_checked fun _ => .carried (.works .clearOverflow) nofun)
  case setAttention => exact taken (.of_checked fun _ => .carried (.sets .setAttention) nofun)
  case resetSelf => exact taken (.of_checked fun _ => .carried (.works .resetSelf) nofun)
  case configObject => exact taken (.of_checked fun passes => .carried (.sets (.configObject passes)) nofun)
  case online => exact taken (.of_checked fun passes => .carried (.works (.online passes)) nofun)
  case offline => exact taken (.of_checked fun _ => .carried (.works .offline) nofun)
  case revoke => exact taken (.of_checked fun passes => .carried (.works (.revoke passes)) nofun)
  case setQuota =>
    exact taken (.of_checked fun passes => .carried (.sets (.setQuota (firstFailing_supervisor_eq_none_iff.mp passes).2)) nofun)
  case readmit => exact taken (.of_checked fun _ => .carried (.works .readmit) nofun)
  case bar => exact taken (.of_checked fun _ => .carried (.works .bar) nofun)
  case setSupervisor => exact taken (.of_checked fun passes => .carried (.sets (.setSupervisor passes)) nofun)
  case clearMaster => exact taken (.of_checked fun _ => .carried (.works .clearMaster) nofun)
  case configGuard =>
    refine taken (f := configGuard m w) ?_
    unfold configGuard
    exact .of_checked fun _ => .carried (.sets .configGuard) nofun
  case ackLog => exact taken (.of_checked fun _ => .carried (.sets .ackLog) nofun)
  case setTimeBase => exact taken (.of_checked fun _ => .carried (.sets .setTimeBase) nofun)

/-! ### Every row -/

/-- An event that is no access and occurs takes the part with the bus idle to the second state. -/
inductive Occurs : Instr → State → State → Prop where
  | period {s} : s.timeBase.runState = .running → Occurs .rclkPeriod s (countPeriod (takeOutstanding s))
  | timeUnit {s} : s.timeBase.runState = .running → Occurs .timeUnitEnd s (endTimeUnit (takeOutstanding s))
  | deadline {o s} : (s.obj o).yieldFallsOut = true → Occurs (.deadline o) s (deadline o s)
  | settle {o s} : (s.obj o).settleFallsOut = true → Occurs (.settleExpiry o) s (settleExpires o s)
  | wait {o m s} : s.entryDue o m = true → Occurs (.waitLimitExpiry o m) s (waitExpires o m s)
  | ceiling {o s} : (s.obj o).reachesCeiling = true → (s.obj o).yieldFallsOut = false →
    Occurs (.tenureReachesCeiling o) s (tenureEvent o s)
  | floor {o s} : (s.obj o).reachesFloor = true → (s.obj o).yieldFallsOut = false →
    Occurs (.tenureReachesFloor o) s (tenureEvent o s)
  | release {s} : Occurs .resetRelease s { s with resetAsserted := false }

/-- The row `i` takes the part from `s` to the second state: all that a command, an access or an event can do. -/
inductive Does : Instr → State → State → Prop where
  /-- An access while RESET is asserted, or an event that does not occur. -/
  | nothing {i s} : (s.resetAsserted = false → isBusAccess i = false) → Does i s s.deasserted
  /-- A port write that is refused or carried out. -/
  | port {i m w s t} : s.resetAsserted = false → portWrite i = some (m, w) → Answered i m s.acknowledged t → Does i s t
  /-- A whole-word write at a command port, which is that port's command (log 9). -/
  | command {m offset byteEnables w c s t} : s.resetAsserted = false → wholeWord byteEnables = true →
    isCommandOffset offset = true → portWrite c = some (m, w) → Answered c m s.acknowledged t →
    Does (.registerWrite m offset byteEnables w) s t
  | stored {m offset byteEnables w s} : s.resetAsserted = false →
    Does (.registerWrite m offset byteEnables w) s (writeRegister m offset w s.acknowledged)
  | ignored {m offset byteEnables w s} : s.resetAsserted = false →
    Does (.registerWrite m offset byteEnables w) s s.acknowledged
  | read {r s} : s.resetAsserted = false → Does (.readView0 r) s (windowRead r s.acknowledged)
  | observed {m addr dir s} : s.resetAsserted = false →
    Does (.observation m addr dir) s (observe m addr dir s.deasserted)
  | reset {s} : Does .reset s { s.powerOn with resetAsserted := true }
  | event {i s t} : Occurs i s.deasserted t → Does i s t

/-- A whole-word write is the command of the port it is made at, or a register write (R160, Table 10-1). -/
theorem wholeWordWrite_cases (m : Master) (offset : WindowOffset) (w : Word) (s : State) :
    (isCommandOffset offset = true ∧ ∃ c, portWrite c = some (m, w) ∧ wholeWordWrite m offset w s = exec c s) ∨
      wholeWordWrite m offset w s = answerWindow s (writeRegister m offset w) := by
  have command (c : Instr) (at_ : isCommandOffset offset = true) (port : portWrite c = some (m, w)) :
      (isCommandOffset offset = true ∧ ∃ d, portWrite d = some (m, w) ∧ exec c s = exec d s) ∨
        exec c s = answerWindow s (writeRegister m offset w) := .inl ⟨at_, c, port, rfl⟩
  unfold wholeWordWrite
  split
  case h_1 e => exact command (.claim m w) (by simp [isCommandOffset, e]) rfl
  case h_2 e => exact command (.release m w) (by simp [isCommandOffset, e]) rfl
  case h_3 e => exact command (.withdraw m w) (by simp [isCommandOffset, e]) rfl
  case h_4 e => exact command (.watch m w) (by simp [isCommandOffset, e]) rfl
  case h_5 e => exact command (.unwatch m w) (by simp [isCommandOffset, e]) rfl
  case h_6 e => exact command (.ackEvent m w) (by simp [isCommandOffset, e]) rfl
  case h_7 e => exact command (.clearOverflow m w) (by simp [isCommandOffset, e]) rfl
  case h_8 e => exact command (.setAttention m w) (by simp [isCommandOffset, e]) rfl
  case h_9 e => exact command (.resetSelf m w) (by simp [isCommandOffset, e]) rfl
  case h_10 e => exact command (.configObject m w) (by simp [isCommandOffset, e]) rfl
  case h_11 e => exact command (.online m w) (by simp [isCommandOffset, e]) rfl
  case h_12 e => exact command (.offline m w) (by simp [isCommandOffset, e]) rfl
  case h_13 e => exact command (.revoke m w) (by simp [isCommandOffset, e]) rfl
  case h_14 e => exact command (.setQuota m w) (by simp [isCommandOffset, e]) rfl
  case h_15 e => exact command (.readmit m w) (by simp [isCommandOffset, e]) rfl
  case h_16 e => exact command (.setSupervisor m w) (by simp [isCommandOffset, e]) rfl
  case h_17 e => exact command (.clearMaster m w) (by simp [isCommandOffset, e]) rfl
  case h_18 e => exact command (.configGuard m w) (by simp [isCommandOffset, e]) rfl
  case h_19 e => exact command (.ackLog m w) (by simp [isCommandOffset, e]) rfl
  case h_20 e => exact command (.setTimeBase m w) (by simp [isCommandOffset, e]) rfl
  case h_21 => exact .inr rfl

/-- A port write while RESET is asserted is not answered (R155). -/
theorem exec_portWrite_of_asserted {i : Instr} {m : Master} {w : Word} {s : State} (port : portWrite i = some (m, w))
    (asserted : s.resetAsserted = true) : exec i s = .next s.deasserted := by
  cases i <;> cases port <;> exact answerWindow_of_asserted asserted _

/-- What a register write does. -/
theorem exec_registerWrite_does (m : Master) (offset : WindowOffset) (byteEnables : BitVec 4) (w : Word) (s : State) :
    ∃ t, exec (.registerWrite m offset byteEnables w) s = .next t ∧
      Does (.registerWrite m offset byteEnables w) s t := by
  show ∃ t, execRegisterWrite m offset byteEnables w s = _ ∧ _
  unfold execRegisterWrite
  cases reset : s.resetAsserted with
  | true =>
    refine ⟨s.deasserted, ?_, .nothing (by simp [reset])⟩
    split
    · obtain ⟨-, c, port, command⟩ | register := wholeWordWrite_cases m offset w s
      · rw [command, exec_portWrite_of_asserted port reset]
      · rw [register, answerWindow_of_asserted reset]
    · exact answerWindow_of_asserted reset _
  | false =>
    split
    · rename_i whole
      obtain ⟨at_, c, port, command⟩ | register := wholeWordWrite_cases m offset w s
      · obtain ⟨t, taken, answered⟩ := exec_portWrite port reset
        exact ⟨t, command.trans taken, .command reset whole at_ port answered⟩
      · exact ⟨_, register.trans (answerWindow_of_released reset _), .stored reset⟩
    · exact ⟨_, answerWindow_of_released reset _, .ignored reset⟩

/-- An event that occurs under a condition, and else changes no record (log 6). -/
theorem offBus_does {i : Instr} {s : State} {f : State → State} {c : State → Bool} (noAccess : isBusAccess i = false)
    (occurs : c s.deasserted = true → Occurs i s.deasserted (f s.deasserted)) :
    ∃ t, offBus s (fun s => if c s then f s else s) = .next t ∧ Does i s t := by
  cases holds : c s.deasserted with
  | true => exact ⟨f s.deasserted, by simp [holds], .event (occurs holds)⟩
  | false => exact ⟨s.deasserted, by simp [holds], .nothing fun _ => noAccess⟩

/-- Every row answers a next state, and does one of these things. -/
theorem exec_does (i : Instr) (s : State) : ∃ t, exec i s = .next t ∧ Does i s t := by
  cases port : portWrite i with
  | some mw =>
    obtain ⟨m, w⟩ := mw
    cases reset : s.resetAsserted with
    | true => exact ⟨_, exec_portWrite_of_asserted port reset, .nothing (by simp [reset])⟩
    | false =>
      obtain ⟨t, taken, answered⟩ := exec_portWrite port reset
      exact ⟨t, taken, .port reset port answered⟩
  | none =>
    cases i <;> try contradiction
    case readView0 r =>
      cases reset : s.resetAsserted with
      | true => exact ⟨_, answerWindow_of_asserted reset _, .nothing (by simp [reset])⟩
      | false => exact ⟨_, answerWindow_of_released reset _, .read reset⟩
    case registerWrite => exact exec_registerWrite_does _ _ _ _ _
    case observation m addr dir =>
      cases reset : s.resetAsserted with
      | true => exact ⟨_, if_pos reset, .nothing (by simp [reset])⟩
      | false => exact ⟨_, if_neg (by simp [reset]), .observed reset⟩
    case reset => exact ⟨_, rfl, .reset⟩
    case timeUnitEnd =>
      exact offBus_does (c := fun s => s.timeBase.runState == .running) (f := fun s => endTimeUnit (takeOutstanding s))
        rfl fun running => .timeUnit (by simpa using running)
    case deadline o => exact offBus_does (c := fun s => (s.obj o).yieldFallsOut) (f := deadline o) rfl .deadline
    case settleExpiry o =>
      exact offBus_does (c := fun s => (s.obj o).settleFallsOut) (f := settleExpires o) rfl .settle
    case waitLimitExpiry o m =>
      exact offBus_does (c := fun s => s.entryDue o m) (f := waitExpires o m) rfl .wait
    case tenureReachesCeiling o =>
      exact offBus_does (c := fun s => (s.obj o).reachesCeiling && !(s.obj o).yieldFallsOut) (f := tenureEvent o) rfl
        fun reaches => by
          rw [Bool.and_eq_true, Bool.not_eq_true'] at reaches
          exact .ceiling reaches.1 reaches.2
    case tenureReachesFloor o =>
      exact offBus_does (c := fun s => (s.obj o).reachesFloor && !(s.obj o).yieldFallsOut) (f := tenureEvent o) rfl
        fun reaches => by
          rw [Bool.and_eq_true, Bool.not_eq_true'] at reaches
          exact .floor reaches.1 reaches.2
    case rclkPeriod =>
      exact offBus_does (c := fun s => s.timeBase.runState == .running) (f := fun s => countPeriod (takeOutstanding s))
        rfl fun running => .period (by simpa using running)
    case resetRelease => exact ⟨_, rfl, .event .release⟩

/-- What a row leaves is what it does. -/
theorem does_of_exec {i : Instr} {s t : State} (h : exec i s = .next t) : Does i s t := by
  obtain ⟨u, taken, does⟩ := exec_does i s
  rw [h] at taken
  cases taken
  exact does

end Sys2Proof.Machine
end

section
/-! PROOFS. Work of the Object Table and the Master Table: what every shared operation keeps of the settings, the bus
pins, the queues and the lines, whatever the state it is done on. -/

namespace Sys2Proof.Machine

/-! ### One object record -/

/-- Master `k` neither holds, waits on nor watches the object of this record. -/
structure ObjectRec.Stranger (r : ObjectRec) (k : Master) : Prop where
  holds : isMember r.holders k = false
  waits : ∀ e ∈ r.line, e.master ≠ k
  watches : isMember r.watchers k = false

/-- A change of an object's record that keeps its configuration, takes no one into its line, adds nothing to what it
owes, and lets no stranger in. -/
structure ObjectRec.Narrows (r r' : ObjectRec) : Prop where
  configuration : r.SameConfiguration r'
  line : r'.line.Sublist r.line
  owed : r.owed.any = false → r'.owed.any = false
  stranger : ∀ k, r.Stranger k → r'.Stranger k

theorem ObjectRec.SameConfiguration.refl (r : ObjectRec) : r.SameConfiguration r := ⟨rfl, rfl, rfl, rfl, rfl, rfl⟩

theorem ObjectRec.SameConfiguration.trans {a b c : ObjectRec} (h : a.SameConfiguration b)
    (k : b.SameConfiguration c) : a.SameConfiguration c := by
  unfold ObjectRec.SameConfiguration at *
  simp_all

theorem ObjectRec.Narrows.refl (r : ObjectRec) : r.Narrows r := ⟨.refl r, .refl _, id, fun _ => id⟩

theorem ObjectRec.Narrows.trans {a b c : ObjectRec} (h : a.Narrows b) (k : b.Narrows c) : a.Narrows c :=
  ⟨h.configuration.trans k.configuration, k.line.trans h.line, k.owed ∘ h.owed,
    fun m s => k.stranger m (h.stranger m s)⟩

/-- A change outside the configuration that gains neither entry nor holder nor watcher. -/
theorem ObjectRec.Narrows.of_fewer {r r' : ObjectRec} (configuration : r.SameConfiguration r')
    (line : r'.line.Sublist r.line) (owed : r.owed.any = false → r'.owed.any = false)
    (holders : ∀ k, isMember r.holders k = false → isMember r'.holders k = false)
    (watchers : ∀ k, isMember r.watchers k = false → isMember r'.watchers k = false) : r.Narrows r' :=
  ⟨configuration, line, owed, fun k s =>
    ⟨holders k s.holds, fun e he => s.waits e (line.subset he), watchers k s.watches⟩⟩

theorem isMember_removeMember_of_not {ms : MasterSet} {m k : Master} (h : isMember ms k = false) :
    isMember (removeMember ms m) k = false := by rw [isMember_removeMember, h]; rfl

/-! ### One master record -/

/-- A change of a master's record that keeps its settings and its queue within bounds. -/
structure MasterRec.KeepsSettings (x y : MasterRec) : Prop where
  quota : y.quota = x.quota
  supervisor : y.supervisor = x.supervisor
  attention : y.attention = x.attention
  queue : x.queue.length ≤ queueCapacity → y.queue.length ≤ queueCapacity

theorem MasterRec.KeepsSettings.refl (x : MasterRec) : x.KeepsSettings x := ⟨rfl, rfl, rfl, id⟩

theorem MasterRec.KeepsSettings.trans {x y z : MasterRec} (h : x.KeepsSettings y) (k : y.KeepsSettings z) :
    x.KeepsSettings z :=
  ⟨k.quota.trans h.quota, k.supervisor.trans h.supervisor, k.attention.trans h.attention, k.queue ∘ h.queue⟩

theorem MasterRec.keepsSettings_post (x : MasterRec) (n : Notice) : x.KeepsSettings (x.post n) :=
  ⟨x.post_quota n, x.post_supervisor n, x.post_attention n, fun h => MasterRec.post_queue_length_le h n⟩

/-! ### The part -/

/-- The registers of the Bus Port, the pins and the waiting commands stand. -/
structure State.SameBus (s t : State) : Prop where
  ports : t.ports = s.ports
  resetAsserted : t.resetAsserted = s.resetAsserted
  ack : t.ack = s.ack
  deny : t.deny = s.deny
  dataOut : t.dataOut = s.dataOut
  pending : t.pending = s.pending

theorem State.SameBus.refl (s : State) : s.SameBus s := ⟨rfl, rfl, rfl, rfl, rfl, rfl⟩

theorem State.SameBus.trans {s t u : State} (h : s.SameBus t) (k : t.SameBus u) : s.SameBus u :=
  ⟨k.ports.trans h.ports, k.resetAsserted.trans h.resetAsserted, k.ack.trans h.ack, k.deny.trans h.deny,
    k.dataOut.trans h.dataOut, k.pending.trans h.pending⟩

/-- Work of the two tables, which changes scores besides what `ObjectWork` changes. -/
structure State.TableWork (s t : State) : Prop where
  bus : s.SameBus t
  windows : t.windows = s.windows
  log : t.log = s.log
  timeBase : t.timeBase = s.timeBase
  objects : ∀ o, (s.obj o).Narrows (t.obj o)
  masters : ∀ m, (s.mst m).KeepsSettings (t.mst m)

theorem State.TableWork.refl (s : State) : s.TableWork s := ⟨.refl s, rfl, rfl, rfl, fun _ => .refl _, fun _ => .refl _⟩

theorem State.TableWork.trans {s t u : State} (h : s.TableWork t) (k : t.TableWork u) : s.TableWork u :=
  ⟨h.bus.trans k.bus, k.windows.trans h.windows, k.log.trans h.log, k.timeBase.trans h.timeBase,
    fun o => (h.objects o).trans (k.objects o), fun m => (h.masters m).trans (k.masters m)⟩

theorem State.TableWork.foldl {α : Type} {f : State → α → State} (h : ∀ (s : State) a, s.TableWork (f s a))
    (l : List α) (s : State) : s.TableWork (l.foldl f s) := by
  induction l generalizing s with
  | nil => exact refl s
  | cons a l ih => exact (h s a).trans (ih _)

/-- A change of one object's record that narrows it. -/
theorem State.modObj_tableWork {s : State} {o : ObjNum} {f : ObjectRec → ObjectRec}
    (h : (s.obj o).Narrows (f (s.obj o))) : s.TableWork (s.modObj o f) :=
  ⟨⟨rfl, rfl, rfl, rfl, rfl, rfl⟩, rfl, rfl, rfl, fun p => by
    rw [State.modObj_obj]; split
    · subst p; exact h
    · exact .refl _, fun _ => .refl _⟩

/-- A change of one master's record that keeps its settings. -/
theorem State.modMst_tableWork {s : State} {m : Master} {f : MasterRec → MasterRec}
    (h : (s.mst m).KeepsSettings (f (s.mst m))) : s.TableWork (s.modMst m f) :=
  ⟨⟨rfl, rfl, rfl, rfl, rfl, rfl⟩, rfl, rfl, rfl, fun _ => .refl _, fun k => by
    rw [State.modMst_mst]; split
    · subst k; exact h
    · exact .refl _⟩

theorem State.returnEntries_tableWork (s : State) (n : Nat) : s.TableWork (s.returnEntries n) :=
  ⟨⟨rfl, rfl, rfl, rfl, rfl, rfl⟩, rfl, rfl, rfl, fun _ => .refl _, fun _ => .refl _⟩

theorem State.post_tableWork (s : State) (m : Master) (n : Notice) : s.TableWork (s.post m n) :=
  State.modMst_tableWork (MasterRec.keepsSettings_post _ n)

theorem State.postEach_tableWork (s : State) (l : List Master) (n : Notice) : s.TableWork (s.postEach l n) :=
  State.TableWork.foldl (fun s m => s.post_tableWork m n) l s

theorem State.removeWaiter_tableWork (s : State) (o : ObjNum) (m : Master) : s.TableWork (s.removeWaiter o m) := by
  refine State.TableWork.trans (State.modObj_tableWork ?_) (State.returnEntries_tableWork _ _)
  exact .of_fewer ⟨rfl, rfl, rfl, rfl, rfl, rfl⟩ List.filter_sublist id (fun _ => id) fun _ => id

theorem State.dropWatch_tableWork (s : State) (m : Master) (o : ObjNum) : s.TableWork (s.dropWatch m o) := by
  refine State.modObj_tableWork ?_
  exact .of_fewer ⟨rfl, rfl, rfl, rfl, rfl, rfl⟩ (.refl _) id (fun _ => id) fun _ => isMember_removeMember_of_not

/-! ### Yields and handover -/

/-- What a record owes without its yield is no more than what it owed. -/
theorem Owed.any_without_yield {w : Owed} (h : w.any = false) : ({ w with yield := false } : Owed).any = false := by
  simp_all [Owed.any]

theorem askYield_tableWork (o : ObjNum) (reason : YieldReason) (s : State) : s.TableWork (askYield o reason s) := by
  refine State.TableWork.trans (State.modObj_tableWork ?_) (State.postEach_tableWork _ _ _)
  exact .of_fewer ⟨rfl, rfl, rfl, rfl, rfl, rfl⟩ (.refl _) Owed.any_without_yield (fun _ => id) fun _ => id

theorem contentionTest_tableWork (o : ObjNum) (s : State) : s.TableWork (contentionTest o s) := by
  unfold contentionTest; split
  · exact askYield_tableWork o _ s
  · exact .refl s

theorem ceilingTest_tableWork (o : ObjNum) (s : State) : s.TableWork (ceilingTest o s) := by
  unfold ceilingTest; split
  · exact askYield_tableWork o _ s
  · exact .refl s

theorem enterSettling_tableWork (o : ObjNum) (s : State) : s.TableWork (enterSettling o s) := by
  refine State.modObj_tableWork ?_
  exact .of_fewer ⟨rfl, rfl, rfl, rfl, rfl, rfl⟩ (.refl _) (fun _ => rfl) (fun _ => id) fun _ => id

theorem becomeFree_tableWork (o : ObjNum) (s : State) : s.TableWork (becomeFree o s) := by
  refine State.TableWork.trans (State.modObj_tableWork ?_) (State.postEach_tableWork _ _ _)
  exact .of_fewer ⟨rfl, rfl, rfl, rfl, rfl, rfl⟩ (.refl _) id (fun _ => id) fun k _ => isMember_zero k

theorem ObjectRec.countGrant_narrows (r : ObjectRec) : r.Narrows r.countGrant :=
  .of_fewer ⟨rfl, rfl, rfl, rfl, rfl, rfl⟩ (.refl _) id (fun _ => id) fun _ => id

theorem grantEntry_tableWork (o : ObjNum) (s : State) (e : Entry) : s.TableWork (grantEntry o s e) :=
  ((s.returnEntries_tableWork 1).trans (State.modObj_tableWork (ObjectRec.countGrant_narrows _))).trans
    (State.post_tableWork _ _ _)

theorem remainingEntries_sublist (line : List Entry) : (remainingEntries line).Sublist line := by
  conv_rhs => rw [← grantedEntries_append_remaining line]
  exact List.sublist_append_right _ _

theorem grantedEntries_sublist (line : List Entry) : (grantedEntries line).Sublist line := by
  conv_rhs => rw [← grantedEntries_append_remaining line]
  exact List.sublist_append_left _ _

/-- Step 3 of a handover takes its holders from the line. -/
theorem grantFromLine_tableWork (o : ObjNum) (s : State) : s.TableWork (grantFromLine o s) := by
  unfold grantFromLine
  refine State.TableWork.trans (State.modObj_tableWork ?_)
    ((State.TableWork.foldl (grantEntry_tableWork o) _ _).trans (contentionTest_tableWork o _))
  refine ⟨⟨rfl, rfl, rfl, rfl, rfl, rfl⟩, remainingEntries_sublist _, fun _ => rfl, fun k stranger => ⟨?_, ?_, ?_⟩⟩
  · rw [isMember_setOf]
    simp only [decide_eq_false_iff_not, List.mem_map, not_exists, not_and]
    exact fun e he => stranger.waits e ((grantedEntries_sublist _).subset he)
  · exact fun e he => stranger.waits e ((remainingEntries_sublist _).subset he)
  · exact stranger.watches

theorem handoverFromStep2_tableWork (o : ObjNum) (s : State) : s.TableWork (handoverFromStep2 o s) := by
  unfold handoverFromStep2; split
  · exact becomeFree_tableWork o s
  · exact grantFromLine_tableWork o s

theorem handover_tableWork (forced : Bool) (o : ObjNum) (s : State) : s.TableWork (handover forced o s) := by
  unfold handover; split
  · exact enterSettling_tableWork o s
  · exact handoverFromStep2_tableWork o s

theorem ObjectRec.endTenure_narrows (r : ObjectRec) : r.Narrows r.endTenure :=
  .of_fewer ⟨rfl, rfl, rfl, rfl, rfl, rfl⟩ (.refl _) (fun _ => rfl) (fun _ => id) fun _ => id

theorem ObjectRec.dropHolder_narrows (r : ObjectRec) (m : Master) : r.Narrows (r.dropHolder m) :=
  .of_fewer ⟨rfl, rfl, rfl, rfl, rfl, rfl⟩ (.refl _) id (fun _ => isMember_removeMember_of_not) fun _ => id

theorem afterRemoval_tableWork (forced : Bool) (o : ObjNum) (s : State) : s.TableWork (afterRemoval forced o s) := by
  unfold afterRemoval; split
  · exact (State.modObj_tableWork (ObjectRec.endTenure_narrows _)).trans (handover_tableWork forced o _)
  · exact .refl s

theorem releaseHold_tableWork (m : Master) (o : ObjNum) (s : State) : s.TableWork (releaseHold m o s) :=
  (State.modObj_tableWork (ObjectRec.dropHolder_narrows _ m)).trans (afterRemoval_tableWork false o _)

theorem settleExpires_tableWork (o : ObjNum) (s : State) : s.TableWork (settleExpires o s) := by
  refine State.TableWork.trans (State.modObj_tableWork ?_) (handoverFromStep2_tableWork o _)
  exact .of_fewer ⟨rfl, rfl, rfl, rfl, rfl, rfl⟩ (.refl _) (fun _ => rfl) (fun _ => id) fun _ => id

theorem revokeHolders_tableWork (o : ObjNum) (s : State) : s.TableWork (revokeHolders o s) := by
  refine State.TableWork.trans (.trans (State.modObj_tableWork ?_) (State.postEach_tableWork _ _ _))
    (handover_tableWork true o _)
  exact .of_fewer ⟨rfl, rfl, rfl, rfl, rfl, rfl⟩ (.refl _) (fun _ => rfl) (fun k _ => isMember_zero k) fun _ => id

theorem offlineHolders_tableWork (o : ObjNum) (s : State) : s.TableWork (offlineHolders o s) := by
  refine State.TableWork.trans (State.modObj_tableWork ?_) (State.postEach_tableWork _ _ _)
  exact .of_fewer ⟨rfl, rfl, rfl, rfl, rfl, rfl⟩ (.refl _) id (fun k _ => isMember_zero k) fun _ => id

theorem offlineLine_tableWork (o : ObjNum) (s : State) : s.TableWork (offlineLine o s) := by
  refine State.TableWork.trans (.trans (State.modObj_tableWork ?_) (State.returnEntries_tableWork _ _))
    (State.postEach_tableWork _ _ _)
  exact .of_fewer ⟨rfl, rfl, rfl, rfl, rfl, rfl⟩ (List.nil_sublist _) id (fun _ => id) fun _ => id

theorem offlineComplete_tableWork (o : ObjNum) (s : State) : s.TableWork (offlineComplete o s) := by
  refine State.TableWork.trans (State.modObj_tableWork ?_) (State.postEach_tableWork _ _ _)
  exact .of_fewer ⟨rfl, rfl, rfl, rfl, rfl, rfl⟩ (.refl _) (fun _ => rfl) (fun _ => id) fun k _ => isMember_zero k

/-! ### The cascade, the clearing and changes of score -/

theorem dropWatches_tableWork (m : Master) (s : State) : s.TableWork (dropWatches m s) :=
  State.TableWork.foldl (fun s o => s.dropWatch_tableWork m o) _ s

theorem cascadeHold_tableWork (m : Master) (s : State) (o : ObjNum) : s.TableWork (cascadeHold m s o) :=
  (((State.modObj_tableWork (ObjectRec.dropHolder_narrows _ m)).trans (State.post_tableWork _ _ _)).trans
    (State.dropWatch_tableWork _ _ _)).trans (afterRemoval_tableWork true o _)

theorem cascadeWait_tableWork (m : Master) (s : State) (o : ObjNum) : s.TableWork (cascadeWait m s o) :=
  (s.removeWaiter_tableWork o m).trans (State.post_tableWork _ _ _)

theorem cascade_tableWork (m : Master) (s : State) : s.TableWork (cascade m s) :=
  ((((s.post_tableWork _ _).trans (State.postEach_tableWork _ _ _)).trans
    (State.TableWork.foldl (cascadeHold_tableWork m) _ _)).trans
    (State.TableWork.foldl (cascadeWait_tableWork m) _ _)).trans (dropWatches_tableWork m _)

theorem clearHold_tableWork (m : Master) (s : State) (o : ObjNum) : s.TableWork (clearHold m s o) :=
  releaseHold_tableWork m o s

theorem clearQueue_tableWork (m : Master) (s : State) : s.TableWork (clearQueue m s) :=
  State.modMst_tableWork ⟨rfl, rfl, rfl, fun _ => Nat.zero_le _⟩

theorem clearing_tableWork (m : Master) (s : State) : s.TableWork (clearing m s) :=
  (((dropWatches_tableWork m s).trans (State.TableWork.foldl (clearHold_tableWork m) _ _)).trans
    (State.TableWork.foldl (fun s o => s.removeWaiter_tableWork o m) _ _)).trans (clearQueue_tableWork m _)

/-- A change of score and standing alone. -/
theorem MasterRec.keepsSettings_score (x : MasterRec) (score : BitVec 8) (standing : Standing) :
    x.KeepsSettings { x with score := score, standing := standing } := ⟨rfl, rfl, rfl, id⟩

theorem changeScore_tableWork (m : Master) (score : BitVec 8) (s : State) : s.TableWork (changeScore m score s) := by
  have charged : s.TableWork (s.modMst m fun r => r.withScore score) :=
    State.modMst_tableWork (MasterRec.keepsSettings_score _ _ _)
  unfold changeScore
  dsimp only
  split
  · exact charged
  · split
    · exact charged.trans (cascade_tableWork m _)
    · exact charged.trans (State.post_tableWork _ _ _)

theorem readmitMaster_tableWork (n : Master) (s : State) : s.TableWork (readmitMaster n s) := by
  have cleared : s.TableWork (s.modMst n fun r => { r with score := 0, standing := .good }) :=
    State.modMst_tableWork (MasterRec.keepsSettings_score _ _ _)
  unfold readmitMaster
  dsimp only
  split
  · exact cleared
  · exact cleared.trans (State.post_tableWork _ _ _)

theorem barMaster_tableWork (n : Master) (s : State) : s.TableWork (barMaster n s) := by
  unfold barMaster; split
  · exact .refl s
  · exact (State.modMst_tableWork (MasterRec.keepsSettings_score _ _ _)).trans (cascade_tableWork n _)

theorem standingAdmitted_tableWork (w : Word) (s : State) : s.TableWork (standingAdmitted w s) := by
  unfold standingAdmitted; split
  · exact readmitMaster_tableWork _ s
  · exact barMaster_tableWork _ s

theorem deadlineChargeHolder_tableWork (h : Master) (s : State) : s.TableWork (deadlineChargeHolder h s) := by
  have charged : ∀ score, s.TableWork (s.modMst h fun r => r.withScore score) := fun _ =>
    State.modMst_tableWork (MasterRec.keepsSettings_score _ _ _)
  unfold deadlineChargeHolder
  dsimp only
  split
  · exact charged _
  · exact (charged _).trans (State.post_tableWork _ _ _)

theorem deadlineRemove_tableWork (o : ObjNum) (s : State) (h : Master) : s.TableWork (deadlineRemove o s h) := by
  refine State.TableWork.trans (.trans (.trans (State.modObj_tableWork ?_) (State.post_tableWork _ _ _))
    (State.postEach_tableWork _ _ _)) (deadlineChargeHolder_tableWork h _)
  exact .of_fewer ⟨rfl, rfl, rfl, rfl, rfl, rfl⟩ (.refl _) id (fun _ => isMember_removeMember_of_not) fun _ => id

theorem deadlineFirstStage_tableWork (o : ObjNum) (s : State) : s.TableWork (deadlineFirstStage o s) := by
  refine State.TableWork.trans (.trans (State.modObj_tableWork ?_)
    (State.TableWork.foldl (deadlineRemove_tableWork o) _ _)) (State.modObj_tableWork (ObjectRec.endTenure_narrows _))
  exact .of_fewer ⟨rfl, rfl, rfl, rfl, rfl, rfl⟩ (.refl _) id (fun _ => id) fun _ => id

theorem deadline_tableWork (o : ObjNum) (s : State) : s.TableWork (deadline o s) :=
  ((deadlineFirstStage_tableWork o s).trans (State.TableWork.foldl (fun s h => cascade_tableWork h s) _ _)).trans
    (handover_tableWork true o _)

/-! ### Expiries -/

theorem tenureEvent_tableWork (o : ObjNum) (s : State) : s.TableWork (tenureEvent o s) := by
  have advanced : s.TableWork (s.modObj o ObjectRec.advanceOwed) :=
    State.modObj_tableWork
      (.of_fewer ⟨rfl, rfl, rfl, rfl, rfl, rfl⟩ (.refl _) (fun _ => rfl) (fun _ => id) fun _ => id)
  unfold tenureEvent
  dsimp only
  refine advanced.trans ?_
  split <;> split
  · exact (ceilingTest_tableWork o _).trans (contentionTest_tableWork o _)
  · exact contentionTest_tableWork o _
  · exact ceilingTest_tableWork o _
  · exact .refl _

theorem objectEvent_tableWork (o : ObjNum) (s : State) : s.TableWork (objectEvent o s) := by
  unfold objectEvent; split
  · exact settleExpires_tableWork o s
  · split
    · exact deadline_tableWork o s
    · exact tenureEvent_tableWork o s

theorem waitExpires_tableWork (o : ObjNum) (m : Master) (s : State) : s.TableWork (waitExpires o m s) :=
  (s.removeWaiter_tableWork o m).trans (State.post_tableWork _ _ _)

theorem takeExpiry_tableWork (e : Expiry) (s : State) : s.TableWork (takeExpiry e s) := by
  cases e with
  | object o => exact objectEvent_tableWork o s
  | entry o m => exact waitExpires_tableWork o m s

/-- The counter of the free order is no part of the tables. -/
theorem State.with_choices_tableWork (s : State) (n : Nat) : s.TableWork { s with choices := n } :=
  ⟨⟨rfl, rfl, rfl, rfl, rfl, rfl⟩, rfl, rfl, rfl, fun _ => .refl _, fun _ => .refl _⟩

/-- What taking one expiry keeps, the taking of those outstanding keeps. -/
theorem takeOutstandingUpTo_induction {P : State → State → Prop} (refl : ∀ s, P s s)
    (take : ∀ s e n, e ∈ s.outstanding → P s (takeExpiry e { s with choices := n }))
    (trans : ∀ {s t u}, P s t → P t u → P s u) (n : Nat) (s : State) : P s (takeOutstandingUpTo n s) := by
  induction n generalizing s with
  | zero => exact refl s
  | succ n ih =>
    unfold takeOutstandingUpTo
    split
    · exact refl s
    · rename_i e one
      exact take s e s.choices (by simp [one])
    · rename_i e es _ more
      refine trans (take s _ (s.choices + 1) ?_) (ih _)
      rw [more, List.getD_eq_getElem _ _ (Nat.mod_lt _ (by simp))]
      exact List.getElem_mem _

theorem takeOutstanding_tableWork (s : State) : s.TableWork (takeOutstanding s) :=
  takeOutstandingUpTo_induction (P := State.TableWork) .refl
    (fun s e n _ => (s.with_choices_tableWork n).trans (takeExpiry_tableWork e _)) .trans _ s

/-! ### What the work keeps of the part -/

/-- Work of the tables keeps every queue within its bound (R110). -/
theorem State.TableWork.queuesBounded {s t : State} (w : s.TableWork t) (h : s.QueuesBounded) : t.QueuesBounded :=
  fun m => (w.masters m).queue (h m)

/-- It keeps a supervisor (R104). -/
theorem State.TableWork.hasSupervisor {s t : State} (w : s.TableWork t) (h : s.HasSupervisor) : t.HasSupervisor := by
  obtain ⟨m, supervisor⟩ := h
  exact ⟨m, (w.masters m).supervisor.trans supervisor⟩

/-- It adds no wait (R49). -/
theorem State.TableWork.waitsHeld_le {s t : State} (w : s.TableWork t) (m : Master) : t.waitsHeld m ≤ s.waitsHeld m :=
  List.sum_le_sum fun o _ => (w.objects o).line.countP_le

/-- It adds no expiry (R151). -/
theorem State.TableWork.outstanding_sublist {s t : State} (w : s.TableWork t) :
    t.outstanding.Sublist s.outstanding := by
  refine List.Sublist.append (List.Sublist.map _ ?_) ?_
  · refine List.monotone_filter_right _ fun o owes => ?_
    by_contra none
    have := (w.objects o).owed (by simpa using none)
    simp [this] at owes
  · generalize allObjects = l
    induction l with
    | nil => exact .refl _
    | cons o l ih =>
      rw [List.flatMap_cons, List.flatMap_cons]
      exact (((w.objects o).line.filter _).map _).append ih

/-- A master with no part in any object gains none. -/
theorem State.TableWork.holdsNothing {s t : State} (w : s.TableWork t) {m : Master} (h : s.HoldsNothing m) :
    t.HoldsNothing m := by
  intro o
  obtain ⟨holds, waits, watches⟩ := h o
  have stranger := (w.objects o).stranger m
    ⟨holds, fun e he => by simpa using List.any_eq_false.mp waits e he, watches⟩
  exact ⟨stranger.holds, List.any_eq_false.mpr fun e he => by simpa using stranger.waits e he, stranger.watches⟩

end Sys2Proof.Machine
end

section
/-! PROOFS. The rules of the whole part: what a refused command changes, the banks, the settings, the pins, the queues and
the account of the pool. -/

namespace Sys2Proof.Machine

/-! ### The account of the pool, for the operations that are no handover -/

theorem revokeHolders_poolSum (o : ObjNum) (s : State) : (revokeHolders o s).poolSum = s.poolSum := by
  rw [revokeHolders, handover_poolSum, State.postEach_poolSum]
  exact s.modObj_poolSum o rfl

theorem releaseHold_poolSum (m : Master) (o : ObjNum) (s : State) : (releaseHold m o s).poolSum = s.poolSum := by
  rw [releaseHold, afterRemoval_poolSum]
  exact s.modObj_poolSum o rfl

/-- The entries of a line that OFFLINE empties return to the pool (R15). -/
theorem offlineLine_poolSum (o : ObjNum) (s : State) : (offlineLine o s).poolSum = s.poolSum := by
  have count := s.modObj_entriesInUse o fun r => { r with line := [] }
  have same : ((s.modObj o fun r => { r with line := [] }).returnEntries (s.obj o).line.length).entriesInUse =
      (s.modObj o fun r => { r with line := [] }).entriesInUse := State.entriesInUse_congr rfl
  rw [offlineLine, State.postEach_poolSum]
  simp only [State.poolSum, same, State.returnEntries_poolFree, State.modObj_poolFree]
  simp only [List.length_nil] at count
  omega

theorem offline_poolSum (o : ObjNum) (s : State) :
    (offlineComplete o (offlineLine o (offlineHolders o s))).poolSum = s.poolSum := by
  rw [offlineComplete, State.postEach_poolSum, State.modObj_poolSum _ o rfl, offlineLine_poolSum, offlineHolders,
    State.postEach_poolSum]
  exact s.modObj_poolSum o rfl

theorem State.modMst_poolSum (s : State) (m : Master) (f : MasterRec → MasterRec) :
    (s.modMst m f).poolSum = s.poolSum := State.poolSum_congr rfl rfl

theorem standingAdmitted_poolSum (w : Word) (s : State) : (standingAdmitted w s).poolSum = s.poolSum := by
  unfold standingAdmitted readmitMaster barMaster
  dsimp only
  split
  · split
    · exact s.modMst_poolSum _ _
    · rw [State.post_poolSum]; exact s.modMst_poolSum _ _
  · split
    · rfl
    · rw [cascade_poolSum]; exact s.modMst_poolSum _ _

theorem deadlineRemove_poolSum (o : ObjNum) (s : State) (h : Master) : (deadlineRemove o s h).poolSum = s.poolSum := by
  have charge (u : State) : (deadlineChargeHolder h u).poolSum = u.poolSum := by
    unfold deadlineChargeHolder
    dsimp only
    split
    · exact u.modMst_poolSum _ _
    · rw [State.post_poolSum]; exact u.modMst_poolSum _ _
  rw [deadlineRemove, charge, State.postSupervisors, State.postEach_poolSum, State.post_poolSum]
  exact s.modObj_poolSum o rfl

theorem deadline_poolSum (o : ObjNum) (s : State) : (deadline o s).poolSum = s.poolSum := by
  simp only [deadline, handover_poolSum, foldl_poolSum fun s h => cascade_poolSum h s, deadlineFirstStage]
  rw [State.modObj_poolSum _ o rfl, foldl_poolSum (deadlineRemove_poolSum o)]
  exact s.modObj_poolSum o rfl

theorem settleExpires_poolSum (o : ObjNum) (s : State) : (settleExpires o s).poolSum = s.poolSum := by
  have voluntary (u : State) : handoverFromStep2 o u = handover false o u := rfl
  rw [settleExpires, voluntary, handover_poolSum]
  exact s.modObj_poolSum o rfl

theorem tenureEvent_poolSum (o : ObjNum) (s : State) : (tenureEvent o s).poolSum = s.poolSum := by
  have ceiling (reached : Bool) (u : State) : (if reached then ceilingTest o u else u).poolSum = u.poolSum := by
    unfold ceilingTest; split
    · split
      · exact askYield_poolSum o _ u
      · rfl
    · rfl
  have floor (reached : Bool) (u : State) : (if reached then contentionTest o u else u).poolSum = u.poolSum := by
    split
    · exact contentionTest_poolSum o u
    · rfl
  have advance : (s.modObj o ObjectRec.advanceOwed).poolSum = s.poolSum := s.modObj_poolSum o rfl
  exact (floor _ _).trans ((ceiling _ _).trans advance)

theorem objectEvent_poolSum (o : ObjNum) (s : State) : (objectEvent o s).poolSum = s.poolSum := by
  unfold objectEvent; split
  · exact settleExpires_poolSum o s
  · split
    · exact deadline_poolSum o s
    · exact tenureEvent_poolSum o s

theorem waitExpires_poolSum (o : ObjNum) (m : Master) (s : State) : (waitExpires o m s).poolSum = s.poolSum :=
  (State.post_poolSum _ _ _).trans (s.removeWaiter_poolSum o m)

theorem takeExpiry_poolSum (e : Expiry) (s : State) : (takeExpiry e s).poolSum = s.poolSum := by
  cases e with
  | object o => exact objectEvent_poolSum o s
  | entry o m => exact waitExpires_poolSum o m s

theorem takeOutstanding_poolSum (s : State) : (takeOutstanding s).poolSum = s.poolSum :=
  takeOutstandingUpTo_induction (P := fun s t => t.poolSum = s.poolSum) (fun _ => rfl)
    (fun _ e _ _ => (takeExpiry_poolSum e _).trans (State.poolSum_congr rfl rfl)) (fun h k => k.trans h) _ s

/-- A new entry in a line is one taken from the pool (R33). -/
theorem queueClaim_poolSum {m : Master} {w : Word} {s : State} (pool : s.poolFree ≠ 0) :
    (queueClaim m w s).poolSum = s.poolSum := by
  have count := s.takeEntry.modObj_entriesInUse (objectField w) fun r =>
    { r with line := insertEntry (claimEntry m w s) r.line }
  have same : s.takeEntry.entriesInUse = s.entriesInUse := State.entriesInUse_congr rfl
  rw [queueClaim, contentionTest_poolSum]
  simp only [State.takeEntry_obj, insertEntry_length, same] at count
  simp only [State.poolSum, State.modObj_poolFree, State.takeEntry_poolFree]
  omega

/-! ### Each kind of step -/

theorem Works.tableWork {i : Instr} {s u : State} (h : Works i s u) : s.TableWork u := by
  cases h with
  | release => exact (releaseHold_tableWork _ _ s).trans (changeScore_tableWork _ _ _)
  | withdraw => exact s.removeWaiter_tableWork _ _
  | unwatch => exact s.dropWatch_tableWork _ _
  | ackEvent =>
    refine State.modMst_tableWork ⟨rfl, rfl, rfl, fun bound => ?_⟩
    rw [List.length_tail]
    exact (Nat.sub_le _ 1).trans bound
  | clearOverflow => exact State.modMst_tableWork ⟨rfl, rfl, rfl, id⟩
  | resetSelf => exact clearing_tableWork _ s
  | online =>
    refine State.modObj_tableWork ?_
    exact .of_fewer ⟨rfl, rfl, rfl, rfl, rfl, rfl⟩ (.refl _) id (fun _ => id) fun _ => id
  | offline =>
    exact ((offlineHolders_tableWork _ s).trans (offlineLine_tableWork _ _)).trans (offlineComplete_tableWork _ _)
  | revoke => exact revokeHolders_tableWork _ s
  | readmit => exact standingAdmitted_tableWork _ s
  | bar => exact standingAdmitted_tableWork _ s
  | clearMaster => exact (clearing_tableWork _ s).trans (State.post_tableWork _ _ _)

theorem Works.poolSum {i : Instr} {s u : State} (h : Works i s u) : u.poolSum = s.poolSum := by
  cases h with
  | release => exact (changeScore_poolSum _ _ _).trans (releaseHold_poolSum _ _ s)
  | withdraw => exact s.removeWaiter_poolSum _ _
  | unwatch => exact s.modObj_poolSum _ rfl
  | ackEvent => exact s.modMst_poolSum _ _
  | clearOverflow => exact s.modMst_poolSum _ _
  | resetSelf => exact clearing_poolSum _ s
  | online => exact s.modObj_poolSum _ rfl
  | offline => exact offline_poolSum _ s
  | revoke => exact revokeHolders_poolSum _ s
  | readmit => exact standingAdmitted_poolSum _ s
  | bar => exact standingAdmitted_poolSum _ s
  | clearMaster => exact (State.post_poolSum _ _ _).trans (clearing_poolSum _ s)

theorem watchAdmitted_work (m : Master) (o : ObjNum) (s : State) : s.ObjectWork (watchAdmitted m o s) := by
  unfold watchAdmitted; split
  · exact s.post_work m _
  · exact s.modObj_work o _

theorem queueClaim_work (m : Master) (w : Word) (s : State) : s.ObjectWork (queueClaim m w s) :=
  (s.takeEntry_work.trans (State.modObj_work _ _ _)).trans (contentionTest_work _ _)

theorem Sets.poolSum {i : Instr} {s u : State} (h : Sets i s u) : u.poolSum = s.poolSum := by
  cases h with
  | claimGrant => exact s.modObj_poolSum _ rfl
  | claimJoin => exact s.modObj_poolSum _ rfl
  | claimQueue _ _ waits =>
    obtain ⟨-, -, -, pool⟩ := firstFailing_waitChecks_eq_none_iff.mp waits
    exact queueClaim_poolSum pool
  | watch =>
    unfold watchAdmitted; split
    · exact s.post_poolSum _ _
    · exact s.modObj_poolSum _ rfl
  | setAttention => exact s.modMst_poolSum _ _
  | configObject => exact s.modObj_poolSum _ rfl
  | setQuota => exact s.modMst_poolSum _ _
  | setSupervisor => exact s.modMst_poolSum _ _
  | configGuard => exact State.poolSum_congr rfl rfl
  | ackLog => exact State.poolSum_congr rfl rfl
  | setTimeBase =>
    have records := takeOutstanding_poolSum s
    exact (State.poolSum_congr rfl rfl).trans records

/-- Work of the Object Table reaches no register or pin of the Bus Port. -/
theorem State.ObjectWork.sameBus {s t : State} (w : s.ObjectWork t) : s.SameBus t :=
  ⟨w.ports, w.resetAsserted, w.ack, w.deny, w.dataOut, w.pending⟩

theorem Carried.sameBus {i : Instr} {s u : State} (h : Carried i s u) : s.SameBus u := by
  obtain works | sets := h
  · exact works.tableWork.bus
  · cases sets with
    | claimQueue => exact (queueClaim_work _ _ s).sameBus
    | watch => exact (watchAdmitted_work _ _ s).sameBus
    | setTimeBase =>
      obtain ⟨ports, reset, ack, deny, dataOut, pending⟩ := (takeOutstanding_tableWork s).bus
      exact ⟨ports, reset, ack, deny, dataOut, pending⟩
    | _ => exact ⟨rfl, rfl, rfl, rfl, rfl, rfl⟩

/-! ### An observation -/

/-- What a violation writes besides DENY: the log, the records posted, and the charge (R135, R136). -/
theorem observe_of_cons {m : Master} {addr : WordAddr} {dir : Direction} {s : State} {f : FailedWindow}
    {rest : List FailedWindow} (fails : s.failedWindows m addr dir = f :: rest) :
    observe m addr dir s =
      let denied := { s with deny := (f :: rest).any fun x => x.window.action == .deny }
      let offered := offerRecord (violationRecord m addr dir f denied) denied
      changeScore m (raiseScore (offered.mst m).score violationCharge) offered := by
  unfold observe
  rw [fails]

theorem observe_of_nil {m : Master} {addr : WordAddr} {dir : Direction} {s : State}
    (passes : s.failedWindows m addr dir = []) : observe m addr dir s = s := by
  unfold observe
  rw [passes]

/-- The log with a record offered: stored at the tail if there is room, else suppressed (R143, R145). -/
def logWith (l : LogRecord) (log : List LogRecord) : List LogRecord :=
  if log.length < logCapacity then log ++ [l] else suppressNewest log

/-- Offering a record writes the log, and posts LOG_PENDING to every supervisor if it was empty (R143 to R145). -/
theorem offerRecord_eq (l : LogRecord) (s : State) :
    offerRecord l s =
      if s.log.isEmpty then ({ s with log := logWith l s.log } : State).postSupervisors .logPending
      else { s with log := logWith l s.log } := by
  unfold offerRecord logWith
  cases log : s.log with
  | nil => rfl
  | cons first rest => split <;> rfl

/-- An observation sets DENY and the log, and does work of the tables besides. -/
theorem observe_tableWork (m : Master) (addr : WordAddr) (dir : Direction) (s : State) :
    ∃ deny, ({ s with deny := deny, log := (observe m addr dir s).log } : State).TableWork (observe m addr dir s) := by
  cases fails : s.failedWindows m addr dir with
  | nil =>
    rw [observe_of_nil fails]
    exact ⟨s.deny, .refl s⟩
  | cons f rest =>
    let denied : State := { s with deny := (f :: rest).any fun x => x.window.action == .deny }
    let stored : State := { denied with log := logWith (violationRecord m addr dir f denied) s.log }
    have offered : stored.TableWork (offerRecord (violationRecord m addr dir f denied) denied) := by
      rw [offerRecord_eq]; split
      · exact State.postEach_tableWork _ _ _
      · exact .refl _
    have work : stored.TableWork (observe m addr dir s) := by
      rw [observe_of_cons fails]
      exact offered.trans (changeScore_tableWork _ _ _)
    refine ⟨denied.deny, ?_⟩
    rw [work.log]
    exact work

theorem offerRecord_poolSum (l : LogRecord) (s : State) : (offerRecord l s).poolSum = s.poolSum := by
  rw [offerRecord_eq]; split
  · exact (State.postEach_poolSum _ _ _).trans (State.poolSum_congr rfl rfl)
  · exact State.poolSum_congr rfl rfl

theorem observe_poolSum (m : Master) (addr : WordAddr) (dir : Direction) (s : State) :
    (observe m addr dir s).poolSum = s.poolSum := by
  cases fails : s.failedWindows m addr dir with
  | nil => rw [observe_of_nil fails]
  | cons f rest =>
    rw [observe_of_cons fails]
    exact (changeScore_poolSum _ _ _).trans ((offerRecord_poolSum _ _).trans (State.poolSum_congr rfl rfl))

/-! ### Events of time -/

/-- The end of a TU keeps the length of every line, and so the account (R59). -/
theorem endTimeUnit_obj (s : State) (o : ObjNum) :
    (endTimeUnit s).obj o = (s.obj o).timeUnitEnds.lineTimeUnitEnds := by
  simp [endTimeUnit, State.obj]

theorem ObjectRec.timeUnitEnds_line (r : ObjectRec) : r.timeUnitEnds.line = r.line := by
  unfold timeUnitEnds; split <;> rfl

theorem endTimeUnit_poolSum (s : State) : (endTimeUnit s).poolSum = s.poolSum := by
  have lines : (endTimeUnit s).entriesInUse = s.entriesInUse := by
    unfold State.entriesInUse
    congr 1
    refine List.map_congr_left fun o _ => ?_
    rw [endTimeUnit_obj, ObjectRec.lineTimeUnitEnds, List.length_map, ObjectRec.timeUnitEnds_line]
  unfold State.poolSum
  rw [lines]
  rfl

theorem countPeriod_poolSum (s : State) : (countPeriod s).poolSum = s.poolSum := by
  unfold countPeriod; split
  · exact State.poolSum_congr rfl rfl
  · exact endTimeUnit_poolSum s

theorem Occurs.poolSum {i : Instr} {s t : State} (h : Occurs i s t) : t.poolSum = s.poolSum := by
  cases h with
  | period => exact (countPeriod_poolSum _).trans (takeOutstanding_poolSum s)
  | timeUnit => exact (endTimeUnit_poolSum _).trans (takeOutstanding_poolSum s)
  | deadline => exact deadline_poolSum _ s
  | settle => exact settleExpires_poolSum _ s
  | wait => exact waitExpires_poolSum _ _ s
  | ceiling => exact tenureEvent_poolSum _ s
  | floor => exact tenureEvent_poolSum _ s
  | release => exact State.poolSum_congr rfl rfl

/-- An event is work of the tables on the part with its time base set, or with the RESET input released, and the end of
a TU after such work. -/
theorem Occurs.tableWork_or {i : Instr} {s t : State} (h : Occurs i s t) :
    s.TableWork t ∨ (∃ u, s.TableWork u ∧ (t = countPeriod u ∨ t = endTimeUnit u)) ∨
      t = { s with resetAsserted := false } := by
  cases h with
  | period => exact .inr (.inl ⟨_, takeOutstanding_tableWork s, .inl rfl⟩)
  | timeUnit => exact .inr (.inl ⟨_, takeOutstanding_tableWork s, .inr rfl⟩)
  | deadline => exact .inl (deadline_tableWork _ s)
  | settle => exact .inl (settleExpires_tableWork _ s)
  | wait => exact .inl (waitExpires_tableWork _ _ s)
  | ceiling => exact .inl (tenureEvent_tableWork _ s)
  | floor => exact .inl (tenureEvent_tableWork _ s)
  | release => exact .inr (.inr rfl)

/-! ### What every step keeps -/

/-- The two states agree but for the banked registers, the guard windows, the pins, the RESET input, the free counter
and the waiting commands. -/
structure State.SameRecords (s t : State) : Prop where
  objects : t.objects = s.objects
  masters : t.masters = s.masters
  poolFree : t.poolFree = s.poolFree
  log : t.log = s.log
  timeBase : t.timeBase = s.timeBase

theorem writeRegister_sameRecords (m : Master) (offset : WindowOffset) (w : Word) (s : State) :
    s.SameRecords (writeRegister m offset w s) := by
  unfold writeRegister
  split <;> exact ⟨rfl, rfl, rfl, rfl, rfl⟩

theorem windowRead_sameRecords (r : WindowRead) (s : State) : s.SameRecords (windowRead r s) := by
  unfold windowRead
  split <;> exact ⟨rfl, rfl, rfl, rfl, rfl⟩

/-- What holds after reset, looks at those records alone and is kept by every port write carried out, every observation
and every event, is kept by every step. -/
theorem step_keeps {P : State → Prop} (records : ∀ s t, s.SameRecords t → P s → P t) (reset : P State.reset)
    (carried : ∀ {i s u}, Carried i s u → P s → P u)
    (observed : ∀ m addr dir s, P s → P (observe m addr dir s))
    (event : ∀ {i s t}, Occurs i s t → P s → P t) {s t : State} (h : step s = .next t) (holds : P s) : P t := by
  unfold step at h
  split at h
  · cases h; exact records s s.deasserted ⟨rfl, rfl, rfl, rfl, rfl⟩ holds
  · rename_i c rest _
    generalize hu : ({ s with pending := rest } : State) = u at h
    have holds : P u := by subst hu; exact records s _ ⟨rfl, rfl, rfl, rfl, rfl⟩ holds
    have idle : P u.deasserted := records u _ ⟨rfl, rfl, rfl, rfl, rfl⟩ holds
    have acked : P u.acknowledged := records u _ ⟨rfl, rfl, rfl, rfl, rfl⟩ holds
    have answered {i m v} (a : Answered i m u.acknowledged v) : P v := by
      cases a with
      | refused => exact records u.acknowledged _ ⟨rfl, rfl, rfl, rfl, rfl⟩ acked
      | @carried v _ c _ => exact records v _ ⟨rfl, rfl, rfl, rfl, rfl⟩ (carried c acked)
    cases does_of_exec h with
    | nothing => exact idle
    | port _ _ a => exact answered a
    | command _ _ _ _ a => exact answered a
    | stored => exact records _ _ (writeRegister_sameRecords _ _ _ _) acked
    | ignored => exact acked
    | read => exact records _ _ (windowRead_sameRecords _ _) acked
    | observed => exact observed _ _ _ _ idle
    | reset => exact records State.reset _ ⟨rfl, rfl, rfl, rfl, rfl⟩ reset
    | event e => exact event e idle

theorem reset_poolConserved : State.reset.PoolConserved := by
  unfold State.PoolConserved
  decide

/-- Settles O59: every kind of step keeps the sum of the free entries and those in lines. -/
theorem stepKeepsPoolConserved : Obligations.StepKeepsPoolConserved := by
  intro s t conserved taken
  refine step_keeps (P := State.PoolConserved) (fun s t same h => ?_) reset_poolConserved (fun c h => ?_)
    (fun m addr dir s h => ?_) (fun e h => ?_) taken conserved
  · exact (State.poolSum_congr same.objects same.poolFree).trans h
  · obtain works | sets := c
    · exact works.poolSum.trans h
    · exact sets.poolSum.trans h
  · exact (observe_poolSum m addr dir s).trans h
  · exact e.poolSum.trans h

end Sys2Proof.Machine
end

section
/-! PROOFS. The rules of the whole part that need no invariant: refusals, the bus pins, the banks, the settings, the queues
and the supervisors. -/

namespace Sys2Proof.Machine

/-! ### Refusals -/

/-- Settles O29: a port write carried out answers something else than REFUSED, so it was refused. -/
theorem refusedChangesOnlyResult : Obligations.RefusedChangesOnlyResult := by
  intro i m w s t port released taken refused
  obtain ⟨u, taken', answered⟩ := exec_portWrite port released
  rw [taken] at taken'
  cases taken'
  cases answered with
  | refused reason echo =>
    rw [State.refuse, State.answer_port_self]
  | carried _ other =>
    rw [State.answer_port_self] at refused
    exact absurd refused other

/-! ### The pins and the banks -/

theorem windowAccess_of_portWrite {i : Instr} {m : Master} {w : Word} (port : portWrite i = some (m, w)) :
    windowAccess i = some m := by
  cases i <;> cases port <;> rfl

theorem writeRegister_ack (m : Master) (offset : WindowOffset) (w : Word) (s : State) :
    (writeRegister m offset w s).ack = s.ack ∧ (writeRegister m offset w s).deny = s.deny ∧
      (writeRegister m offset w s).dataOut = s.dataOut := by
  unfold writeRegister
  split <;> exact ⟨rfl, rfl, rfl⟩

theorem writeRegister_port_ne {m k : Master} (other : k ≠ m) (offset : WindowOffset) (w : Word) (s : State) :
    (writeRegister m offset w s).port k = s.port k := by
  unfold writeRegister
  split
  · exact State.modPort_port_ne s other _
  · exact State.modPort_port_ne s other _
  · exact State.modPort_port_ne s other _
  · rfl

theorem windowRead_ack (r : WindowRead) (s : State) :
    (windowRead r s).ack = s.ack ∧ (windowRead r s).deny = s.deny := by
  unfold windowRead
  split <;> exact ⟨rfl, rfl⟩

theorem windowRead_port_ne {r : WindowRead} {k : Master} (other : k ≠ r.master) (s : State) :
    (windowRead r s).port k = s.port k := by
  unfold windowRead
  split
  · exact (State.with_dataOut_port (takeSnapshot r.master s) _ k).trans (State.modPort_port_ne s other _)
  · rfl

/-- A port write, refused or carried out, is completed with ACK, DENY deasserted and no data driven (R155). -/
theorem Answered.pins {i : Instr} {m : Master} {s t : State} (h : Answered i m s.acknowledged t) :
    t.ack = true ∧ t.deny = false ∧ t.dataOut = none := by
  cases h with
  | refused => exact ⟨rfl, rfl, rfl⟩
  | carried c _ => exact ⟨c.sameBus.ack, c.sameBus.deny, c.sameBus.dataOut⟩

/-- It reaches the writer's result record, and no other banked register (R21, R158). -/
theorem Answered.port {i : Instr} {m : Master} {s t : State} (h : Answered i m s t) :
    ∃ r, ∀ k, t.port k = if k = m then { s.port m with result := r } else s.port k := by
  cases h with
  | refused => exact ⟨_, State.answer_port s m _⟩
  | @carried u r c _ =>
    refine ⟨r, fun k => ?_⟩
    have banks (k : Master) : u.port k = s.port k := by unfold State.port; rw [c.sameBus.ports]
    rw [State.answer_port, banks, banks]

theorem countPeriod_sameBus (s : State) : s.SameBus (countPeriod s) := by
  unfold countPeriod; split <;> exact ⟨rfl, rfl, rfl, rfl, rfl, rfl⟩

/-- An event reaches neither the banked registers nor the pins of an idle bus (R136, R158). -/
theorem Occurs.ports {i : Instr} {s t : State} (h : Occurs i s t) :
    t.ports = s.ports ∧ t.ack = s.ack ∧ t.deny = s.deny ∧ t.dataOut = s.dataOut := by
  obtain work | ⟨u, work, rfl | rfl⟩ | rfl := h.tableWork_or
  · exact ⟨work.bus.ports, work.bus.ack, work.bus.deny, work.bus.dataOut⟩
  · have bus := work.bus.trans (countPeriod_sameBus u)
    exact ⟨bus.ports, bus.ack, bus.deny, bus.dataOut⟩
  · exact ⟨work.bus.ports, work.bus.ack, work.bus.deny, work.bus.dataOut⟩
  · exact ⟨rfl, rfl, rfl, rfl⟩

/-- An event is no access. -/
theorem Occurs.windowAccess {i : Instr} {s t : State} (h : Occurs i s t) : windowAccess i = none := by
  cases h <;> rfl

theorem Occurs.portWrite {i : Instr} {s t : State} (h : Occurs i s t) : portWrite i = none := by
  cases h <;> rfl

theorem isBusAccess_of_windowAccess {i : Instr} (h : (windowAccess i).isSome = true) : isBusAccess i = true := by
  unfold isBusAccess
  split
  · rfl
  · exact h

/-- The windows that fail an access are those that are active, contain it and fail it (R131, R135). -/
theorem State.failedWindows_eq_nil {s : State} {m : Master} {addr : WordAddr} {dir : Direction}
    (h : ∀ i, s.windowActive (s.win i) = true → (s.win i).contains (granuleOf addr) = true →
      checkAccess (s.win i).kind dir m (s.obj (s.win i).object) = none) : s.failedWindows m addr dir = [] := by
  rw [State.failedWindows, List.filterMap_eq_nil_iff]
  intro i _
  unfold State.failsAt
  dsimp only
  split
  · rename_i applies
    rw [Bool.and_eq_true] at applies
    rw [h i applies.1 applies.2]
    rfl
  · rfl

/-- What each kind of step leaves on the pins (R136, R155, R171). -/
theorem Does.pins {c : Instr} {s t : State} (h : Does c s t) :
    ((∀ m addr dir, c ≠ .observation m addr dir) → t.deny = false) ∧ (windowAccess c = none → t.ack = false) ∧
      ((windowAccess c).isSome = true → s.resetAsserted = false → t.ack = true) ∧
      ((∀ r, c ≠ .readView0 r) → t.dataOut = none) := by
  cases h with
  | nothing noAccess =>
    refine ⟨fun _ => rfl, fun _ => rfl, fun access released => ?_, fun _ => rfl⟩
    have := isBusAccess_of_windowAccess access
    rw [noAccess released] at this
    cases this
  | port _ port answered =>
    obtain ⟨ack, deny, dataOut⟩ := answered.pins
    exact ⟨fun _ => deny, fun noAccess => by simp [windowAccess_of_portWrite port] at noAccess, fun _ _ => ack,
      fun _ => dataOut⟩
  | command _ _ _ _ answered =>
    obtain ⟨ack, deny, dataOut⟩ := answered.pins
    exact ⟨fun _ => deny, nofun, fun _ _ => ack, fun _ => dataOut⟩
  | stored =>
    obtain ⟨ack, deny, dataOut⟩ := writeRegister_ack _ _ _ s.acknowledged
    exact ⟨fun _ => deny, nofun, fun _ _ => ack, fun _ => dataOut⟩
  | ignored => exact ⟨fun _ => rfl, nofun, fun _ _ => rfl, fun _ => rfl⟩
  | @read r _ _ =>
    obtain ⟨ack, deny⟩ := windowRead_ack r s.acknowledged
    exact ⟨fun _ => deny, nofun, fun _ _ => ack, fun other => absurd rfl (other r)⟩
  | @observed m addr dir _ _ =>
    obtain ⟨deny, work⟩ := observe_tableWork m addr dir s.deasserted
    exact ⟨fun other => absurd rfl (other m addr dir), fun _ => work.bus.ack, nofun, fun _ => work.bus.dataOut⟩
  | reset => exact ⟨fun _ => rfl, fun _ => rfl, nofun, fun _ => rfl⟩
  | event e =>
    obtain ⟨-, ack, deny, dataOut⟩ := e.ports
    exact ⟨fun _ => deny, fun _ => ack, fun access => by simp [e.windowAccess] at access, fun _ => dataOut⟩

/-- Settles O37: with no failing window the observation leaves the idle bus, and every row is one of the kinds of step. -/
theorem passingObservationChangesNothing : Obligations.PassingObservationChangesNothing := by
  constructor
  · intro m addr dir s released passes
    have noFailure : s.deasserted.failedWindows m addr dir = [] := State.failedWindows_eq_nil passes
    calc exec (.observation m addr dir) s = .next (observe m addr dir s.deasserted) :=
          if_neg (by simp [released])
      _ = .next s.deasserted := by rw [observe_of_nil noFailure]
  · intro c s
    obtain ⟨t, taken, does⟩ := exec_does c s
    exact ⟨t, taken, does.pins⟩

/-- Settles O56: a port write reaches its writer's result, a window access its master's bank, and no other step a bank. -/
theorem banksArePrivate : Obligations.BanksArePrivate := by
  intro i s t k taken notReset
  cases does_of_exec taken with
  | nothing => exact ⟨fun _ => rfl, fun _ => ⟨rfl, rfl, rfl, rfl⟩⟩
  | port _ port answered =>
    obtain ⟨r, bank⟩ := answered.port
    rw [windowAccess_of_portWrite port, bank]
    split
    · rename_i own
      subst own
      exact ⟨fun other => absurd rfl other, fun _ => ⟨rfl, rfl, rfl, rfl⟩⟩
    · exact ⟨fun _ => rfl, fun _ => ⟨rfl, rfl, rfl, rfl⟩⟩
  | @command m _ _ _ _ _ _ _ _ _ _ answered =>
    obtain ⟨r, bank⟩ := answered.port
    refine ⟨fun other => ?_, nofun⟩
    rw [bank, if_neg fun own => other (congrArg some own.symm)]
    rfl
  | stored => exact ⟨fun other => writeRegister_port_ne (fun own => other (congrArg some own.symm)) _ _ _, nofun⟩
  | ignored => exact ⟨fun _ => rfl, nofun⟩
  | read => exact ⟨fun other => windowRead_port_ne (fun own => other (congrArg some own.symm)) _, nofun⟩
  | observed =>
    refine ⟨fun _ => ?_, nofun⟩
    obtain ⟨deny, work⟩ := observe_tableWork _ _ _ s.deasserted
    unfold State.port
    rw [work.bus.ports]
    rfl
  | reset => exact absurd rfl notReset
  | event e =>
    have bank : t.port k = s.port k := by unfold State.port; rw [e.ports.1]; rfl
    exact ⟨fun _ => bank, fun port => by simp [e.portWrite] at port⟩

/-! ### The settings -/

/-- The guard windows, the configuration of every object and the settings of every master stand. -/
structure State.SameSettings (s t : State) : Prop where
  windows : t.windows = s.windows
  configuration : ∀ o, (s.obj o).SameConfiguration (t.obj o)
  quota : ∀ k, (t.mst k).quota = (s.mst k).quota
  supervisor : ∀ k, (t.mst k).supervisor = (s.mst k).supervisor
  attention : ∀ k, (t.mst k).attention = (s.mst k).attention

/-- Each setting stands but for a row `i` of its own, and so does the log. -/
structure State.SettingsBy (i : Instr) (s t : State) : Prop where
  windows : (∀ m w, i ≠ .configGuard m w) → t.windows = s.windows
  configuration : (∀ m w, i ≠ .configObject m w) → ∀ o, (s.obj o).SameConfiguration (t.obj o)
  quota : (∀ m w, i ≠ .setQuota m w) → ∀ k, (t.mst k).quota = (s.mst k).quota
  supervisor : (∀ m w, i ≠ .setSupervisor m w) → ∀ k, (t.mst k).supervisor = (s.mst k).supervisor
  attention : (∀ m w, i ≠ .setAttention m w) → ∀ k, (t.mst k).attention = (s.mst k).attention
  log : (∀ m w, i ≠ .ackLog m w) → (∀ m addr dir, i ≠ .observation m addr dir) → t.log = s.log

theorem State.SameSettings.settingsBy {s t : State} (same : s.SameSettings t) (log : t.log = s.log) (i : Instr) :
    State.SettingsBy i s t :=
  ⟨fun _ => same.windows, fun _ => same.configuration, fun _ => same.quota, fun _ => same.supervisor,
    fun _ => same.attention, fun _ _ => log⟩

theorem State.TableWork.sameSettings {s t : State} (w : s.TableWork t) : s.SameSettings t :=
  ⟨w.windows, fun o => (w.objects o).configuration, fun k => (w.masters k).quota, fun k => (w.masters k).supervisor,
    fun k => (w.masters k).attention⟩

/-- Two states with the same records have the same settings, if they have the same windows. -/
theorem State.SameRecords.sameSettings {s t : State} (same : s.SameRecords t) (windows : t.windows = s.windows) :
    s.SameSettings t := by
  have objects (o : ObjNum) : t.obj o = s.obj o := by unfold State.obj; rw [same.objects]
  have masters (k : Master) : t.mst k = s.mst k := by unfold State.mst; rw [same.masters]
  exact ⟨windows, fun o => by rw [objects]; exact .refl _, fun k => by rw [masters], fun k => by rw [masters],
    fun k => by rw [masters]⟩

theorem State.SameRecords.settingsBy {s t : State} (same : s.SameRecords t) (windows : t.windows = s.windows)
    (i : Instr) : State.SettingsBy i s t := (same.sameSettings windows).settingsBy same.log i

theorem State.SettingsBy.trans {i : Instr} {s t u : State} (h : State.SettingsBy i s t) (k : State.SettingsBy i t u) :
    State.SettingsBy i s u :=
  ⟨fun other => (k.windows other).trans (h.windows other),
    fun other o => (h.configuration other o).trans (k.configuration other o),
    fun other m => (k.quota other m).trans (h.quota other m),
    fun other m => (k.supervisor other m).trans (h.supervisor other m),
    fun other m => (k.attention other m).trans (h.attention other m),
    fun other other' => (k.log other other').trans (h.log other other')⟩

/-- Work of the Object Table that narrows each record's configuration to itself. -/
theorem State.ObjectWork.sameSettings {s t : State} (w : s.ObjectWork t)
    (configuration : ∀ o, (s.obj o).SameConfiguration (t.obj o)) : s.SameSettings t := by
  refine ⟨w.windows, configuration, fun k => ?_, fun k => ?_, fun k => ?_⟩ <;>
    obtain ⟨-, -, quota, supervisor, attention⟩ := w.conduct k
  · exact quota
  · exact supervisor
  · exact attention

/-- A change of one object's record outside its configuration. -/
theorem State.modObj_sameConfiguration {s : State} {o : ObjNum} {f : ObjectRec → ObjectRec}
    (h : (s.obj o).SameConfiguration (f (s.obj o))) (p : ObjNum) :
    (s.obj p).SameConfiguration ((s.modObj o f).obj p) := by
  rw [State.modObj_obj]; split
  · subst p; exact h
  · exact .refl _

theorem queueClaim_sameConfiguration (m : Master) (w : Word) (s : State) (o : ObjNum) :
    (s.obj o).SameConfiguration ((queueClaim m w s).obj o) := by
  refine (State.modObj_sameConfiguration (s := s.takeEntry) (o := objectField w) ?_ o).trans
    ((contentionTest_tableWork _ _).objects o).configuration
  exact ⟨rfl, rfl, rfl, rfl, rfl, rfl⟩

theorem watchAdmitted_sameConfiguration (m : Master) (p : ObjNum) (s : State) (o : ObjNum) :
    (s.obj o).SameConfiguration ((watchAdmitted m p s).obj o) := by
  unfold watchAdmitted; split
  · exact .refl _
  · exact State.modObj_sameConfiguration ⟨rfl, rfl, rfl, rfl, rfl, rfl⟩ o

/-- A field of the master records that a change of one of them keeps. -/
theorem State.modMst_field {α : Type} {s : State} {m : Master} {f : MasterRec → MasterRec} (field : MasterRec → α)
    (h : field (f (s.mst m)) = field (s.mst m)) (k : Master) : field ((s.modMst m f).mst k) = field (s.mst k) := by
  rw [State.modMst_mst]; split
  · subst k; exact h
  · rfl

theorem Sets.settingsBy {i : Instr} {s u : State} (h : Sets i s u) : State.SettingsBy i s u := by
  cases h with
  | claimGrant =>
    exact ((s.modObj_work _ _).sameSettings
      (State.modObj_sameConfiguration ⟨rfl, rfl, rfl, rfl, rfl, rfl⟩)).settingsBy rfl _
  | claimJoin =>
    exact ((s.modObj_work _ _).sameSettings
      (State.modObj_sameConfiguration ⟨rfl, rfl, rfl, rfl, rfl, rfl⟩)).settingsBy rfl _
  | claimQueue =>
    exact ((queueClaim_work _ _ s).sameSettings (queueClaim_sameConfiguration _ _ s)).settingsBy
      (queueClaim_work _ _ s).log _
  | watch =>
    exact ((watchAdmitted_work _ _ s).sameSettings (watchAdmitted_sameConfiguration _ _ s)).settingsBy
      (watchAdmitted_work _ _ s).log _
  | setAttention =>
    exact ⟨fun _ => rfl, fun _ _ => .refl _, fun _ => State.modMst_field MasterRec.quota rfl,
      fun _ => State.modMst_field MasterRec.supervisor rfl, fun other => absurd rfl (other _ _), fun _ _ => rfl⟩
  | configObject =>
    exact ⟨fun _ => rfl, fun other => absurd rfl (other _ _), fun _ _ => rfl, fun _ _ => rfl, fun _ _ => rfl,
      fun _ _ => rfl⟩
  | setQuota =>
    exact ⟨fun _ => rfl, fun _ _ => .refl _, fun other => absurd rfl (other _ _),
      fun _ => State.modMst_field MasterRec.supervisor rfl, fun _ => State.modMst_field MasterRec.attention rfl,
      fun _ _ => rfl⟩
  | setSupervisor =>
    exact ⟨fun _ => rfl, fun _ _ => .refl _, fun _ => State.modMst_field MasterRec.quota rfl,
      fun other => absurd rfl (other _ _), fun _ => State.modMst_field MasterRec.attention rfl, fun _ _ => rfl⟩
  | configGuard =>
    exact ⟨fun other => absurd rfl (other _ _), fun _ _ => .refl _, fun _ _ => rfl, fun _ _ => rfl, fun _ _ => rfl,
      fun _ _ => rfl⟩
  | ackLog =>
    exact ⟨fun _ => rfl, fun _ _ => .refl _, fun _ _ => rfl, fun _ _ => rfl, fun _ _ => rfl,
      fun other => absurd rfl (other _ _)⟩
  | setTimeBase =>
    obtain ⟨windows, configuration, quota, supervisor, attention⟩ := (takeOutstanding_tableWork s).sameSettings
    have log := (takeOutstanding_tableWork s).log
    exact ⟨fun _ => windows, fun _ => configuration, fun _ => quota, fun _ => supervisor, fun _ => attention,
      fun _ _ => log⟩

theorem Carried.settingsBy {i : Instr} {s u : State} (h : Carried i s u) : State.SettingsBy i s u := by
  obtain works | sets := h
  · exact works.tableWork.sameSettings.settingsBy works.tableWork.log i
  · exact sets.settingsBy

theorem State.answer_settingsBy (s : State) (m : Master) (r : ResultRec) (i : Instr) :
    State.SettingsBy i s (s.answer m r) :=
  State.SameRecords.settingsBy (s := s) (t := s.answer m r) ⟨rfl, rfl, rfl, rfl, rfl⟩ rfl i

theorem Answered.settingsBy {i : Instr} {m : Master} {s t : State} (h : Answered i m s t) :
    State.SettingsBy i s t := by
  cases h with
  | refused => exact s.answer_settingsBy m _ i
  | carried c _ => exact c.settingsBy.trans (State.answer_settingsBy _ m _ i)

theorem writeRegister_windows (m : Master) (offset : WindowOffset) (w : Word) (s : State) :
    (writeRegister m offset w s).windows = s.windows := by
  unfold writeRegister
  split <;> rfl

theorem windowRead_windows (r : WindowRead) (s : State) : (windowRead r s).windows = s.windows := by
  unfold windowRead
  split <;> rfl

theorem ObjectRec.timeUnitEnds_sameConfiguration (r : ObjectRec) : r.SameConfiguration r.timeUnitEnds := by
  unfold timeUnitEnds; split <;> exact ⟨rfl, rfl, rfl, rfl, rfl, rfl⟩

theorem endTimeUnit_sameSettings (s : State) : s.SameSettings (endTimeUnit s) :=
  ⟨rfl, fun o => by rw [endTimeUnit_obj]; exact (s.obj o).timeUnitEnds_sameConfiguration, fun _ => rfl, fun _ => rfl,
    fun _ => rfl⟩

theorem State.SameSettings.trans {s t u : State} (h : s.SameSettings t) (k : t.SameSettings u) : s.SameSettings u :=
  ⟨k.windows.trans h.windows, fun o => (h.configuration o).trans (k.configuration o),
    fun m => (k.quota m).trans (h.quota m), fun m => (k.supervisor m).trans (h.supervisor m),
    fun m => (k.attention m).trans (h.attention m)⟩

theorem countPeriod_sameSettings (s : State) : s.SameSettings (countPeriod s) := by
  unfold countPeriod; split
  · exact ⟨rfl, fun _ => .refl _, fun _ => rfl, fun _ => rfl, fun _ => rfl⟩
  · exact endTimeUnit_sameSettings s

theorem countPeriod_log (s : State) : (countPeriod s).log = s.log := by
  unfold countPeriod; split <;> rfl

theorem Occurs.settingsBy {i : Instr} {s t : State} (h : Occurs i s t) : State.SettingsBy i s t := by
  obtain work | ⟨u, work, rfl | rfl⟩ | rfl := h.tableWork_or
  · exact work.sameSettings.settingsBy work.log i
  · exact (work.sameSettings.trans (countPeriod_sameSettings u)).settingsBy ((countPeriod_log u).trans work.log) i
  · exact (work.sameSettings.trans (endTimeUnit_sameSettings u)).settingsBy work.log i
  · exact State.SameRecords.settingsBy (s := s) (t := { s with resetAsserted := false }) ⟨rfl, rfl, rfl, rfl, rfl⟩ rfl i

/-- What each kind of step leaves of the settings, but for RESET. -/
theorem Does.settingsBy {i : Instr} {s t : State} (h : Does i s t) (wellFormed : i.wellFormed = true)
    (notReset : i ≠ .reset) : State.SettingsBy i s t := by
  have acknowledged : State.SettingsBy i s s.acknowledged :=
    State.SameRecords.settingsBy (s := s) (t := s.acknowledged) ⟨rfl, rfl, rfl, rfl, rfl⟩ rfl i
  cases h with
  | nothing => exact State.SameRecords.settingsBy (s := s) (t := s.deasserted) ⟨rfl, rfl, rfl, rfl, rfl⟩ rfl _
  | port _ _ answered => exact acknowledged.trans answered.settingsBy
  | command _ whole at_ _ _ => simp [Instr.wellFormed, whole, at_] at wellFormed
  | stored => exact acknowledged.trans ((writeRegister_sameRecords _ _ _ _).settingsBy (writeRegister_windows _ _ _ _) _)
  | ignored => exact acknowledged
  | read => exact acknowledged.trans ((windowRead_sameRecords _ _).settingsBy (windowRead_windows _ _) _)
  | @observed m addr dir _ _ =>
    obtain ⟨deny, work⟩ := observe_tableWork m addr dir s.deasserted
    obtain ⟨windows, configuration, quota, supervisor, attention⟩ := work.sameSettings
    exact ⟨fun _ => windows, fun _ => configuration, fun _ => quota, fun _ => supervisor, fun _ => attention,
      fun _ other => absurd rfl (other m addr dir)⟩
  | reset => exact absurd rfl notReset
  | event e =>
    obtain ⟨windows, configuration, quota, supervisor, attention, log⟩ := e.settingsBy
    exact ⟨windows, configuration, quota, supervisor, attention, log⟩

/-- Settles O57: each row is one of the kinds of step, and each kind keeps the settings that are not its own. -/
theorem settingsChangeByOwnCommand : Obligations.SettingsChangeByOwnCommand := by
  intro i s t wellFormed taken notReset
  obtain ⟨windows, configuration, quota, supervisor, attention, log⟩ :=
    (does_of_exec taken).settingsBy wellFormed notReset
  exact ⟨windows, configuration, quota, supervisor, attention, log⟩

/-! ### Queues and supervisors -/

/-- Only SET_SUPERVISOR changes who is a supervisor, and it leaves one (R105). -/
theorem setSupervisor_hasSupervisor {m : Master} {w : Word} {s : State}
    (passes : firstFailing (supervisorChecks m w s) = none) (h : s.HasSupervisor) :
    (s.modMst (masterField w) fun r => { r with supervisor := supervisorSetting w }).HasSupervisor := by
  cases setting : supervisorSetting w with
  | true => exact ⟨masterField w, by simp⟩
  | false =>
    obtain ⟨-, -, notLast⟩ := firstFailing_supervisorChecks_eq_none_iff.mp passes
    have notLast := notLast setting
    have other : ∃ k, k ≠ masterField w ∧ (s.mst k).supervisor = true := by
      by_contra none
      simp only [not_exists, not_and, Bool.not_eq_true] at none
      obtain ⟨k, supervisor⟩ := h
      have own : k = masterField w := by
        by_contra ne
        rw [none k ne] at supervisor
        cases supervisor
      subst own
      refine absurd notLast ?_
      simp only [lastSupervisor, supervisor, Bool.true_and, Bool.not_eq_false, List.all_eq_true]
      intro k _
      by_cases e : k = masterField w
      · simp [e]
      · simp [none k e]
    obtain ⟨k, ne, supervisor⟩ := other
    exact ⟨k, by rw [State.modMst_mst_ne _ ne]; exact supervisor⟩

theorem Sets.hasSupervisor {i : Instr} {s u : State} (h : Sets i s u) (has : s.HasSupervisor) : u.HasSupervisor := by
  have kept (other : ∀ m w, i ≠ .setSupervisor m w) : u.HasSupervisor := by
    obtain ⟨k, supervisor⟩ := has
    exact ⟨k, (h.settingsBy.supervisor other k).trans supervisor⟩
  cases h with
  | setSupervisor passes => exact setSupervisor_hasSupervisor passes has
  | _ => exact kept nofun

/-- The queues after a change of one master's record that keeps its queue. -/
theorem State.modMst_queuesBounded {s : State} {m : Master} {f : MasterRec → MasterRec}
    (h : (f (s.mst m)).queue = (s.mst m).queue) (bounded : s.QueuesBounded) : (s.modMst m f).QueuesBounded := fun k => by
  rw [State.modMst_field MasterRec.queue h]
  exact bounded k

theorem Sets.queuesBounded {i : Instr} {s u : State} (h : Sets i s u) (bounded : s.QueuesBounded) :
    u.QueuesBounded := by
  cases h with
  | claimGrant => exact bounded
  | claimJoin => exact bounded
  | claimQueue => exact (contentionTest_tableWork _ _).queuesBounded bounded
  | watch =>
    unfold watchAdmitted; split
    · exact (s.post_tableWork _ _).queuesBounded bounded
    · exact bounded
  | setAttention => exact State.modMst_queuesBounded rfl bounded
  | configObject => exact bounded
  | setQuota => exact State.modMst_queuesBounded rfl bounded
  | setSupervisor => exact State.modMst_queuesBounded rfl bounded
  | configGuard => exact bounded
  | ackLog => exact bounded
  | setTimeBase => exact (takeOutstanding_tableWork s).queuesBounded bounded

theorem countPeriod_masters (s : State) : (countPeriod s).masters = s.masters := by
  unfold countPeriod; split <;> rfl

/-- A property of the master records that work of the tables keeps, an event keeps. -/
theorem Occurs.keeps_masters {P : State → Prop} (work : ∀ {s t}, s.TableWork t → P s → P t)
    (masters : ∀ s t : State, t.masters = s.masters → P s → P t) {i : Instr} {s t : State} (h : Occurs i s t)
    (holds : P s) : P t := by
  obtain w | ⟨u, w, rfl | rfl⟩ | rfl := h.tableWork_or
  · exact work w holds
  · exact masters u _ (countPeriod_masters u) (work w holds)
  · exact masters u _ rfl (work w holds)
  · exact masters s _ rfl holds

theorem State.queuesBounded_of_masters (s t : State) (h : t.masters = s.masters) (bounded : s.QueuesBounded) :
    t.QueuesBounded := fun m => by
  have : t.mst m = s.mst m := by unfold State.mst; rw [h]
  rw [this]
  exact bounded m

theorem State.hasSupervisor_of_masters (s t : State) (h : t.masters = s.masters) (has : s.HasSupervisor) :
    t.HasSupervisor := by
  obtain ⟨m, supervisor⟩ := has
  have : t.mst m = s.mst m := by unfold State.mst; rw [h]
  exact ⟨m, by rw [this]; exact supervisor⟩

theorem observe_queuesBounded (m : Master) (addr : WordAddr) (dir : Direction) (s : State) (h : s.QueuesBounded) :
    (observe m addr dir s).QueuesBounded := by
  obtain ⟨deny, work⟩ := observe_tableWork m addr dir s
  exact work.queuesBounded h

theorem observe_hasSupervisor (m : Master) (addr : WordAddr) (dir : Direction) (s : State) (h : s.HasSupervisor) :
    (observe m addr dir s).HasSupervisor := by
  obtain ⟨deny, work⟩ := observe_tableWork m addr dir s
  exact work.hasSupervisor h

theorem reset_queuesBounded : State.reset.QueuesBounded := fun m => by rw [State.reset_mst]; exact Nat.zero_le _

theorem reset_hasSupervisor : State.reset.HasSupervisor := ⟨0, by rw [State.reset_mst]; rfl⟩

theorem Carried.queuesBounded {i : Instr} {s u : State} (h : Carried i s u) (bounded : s.QueuesBounded) :
    u.QueuesBounded := by
  obtain works | sets := h
  · exact works.tableWork.queuesBounded bounded
  · exact sets.queuesBounded bounded

theorem Carried.hasSupervisor {i : Instr} {s u : State} (h : Carried i s u) (has : s.HasSupervisor) :
    u.HasSupervisor := by
  obtain works | sets := h
  · exact works.tableWork.hasSupervisor has
  · exact sets.hasSupervisor has

/-- Settles O58: every kind of step keeps the bound of the queues, and keeps a supervisor. -/
theorem stepKeepsQueuesAndSupervisor : Obligations.StepKeepsQueuesAndSupervisor := by
  intro s t taken
  constructor
  · exact step_keeps (fun s t same => State.queuesBounded_of_masters s t same.masters) reset_queuesBounded
      Carried.queuesBounded observe_queuesBounded
      (Occurs.keeps_masters State.TableWork.queuesBounded State.queuesBounded_of_masters) taken
  · exact step_keeps (fun s t same => State.hasSupervisor_of_masters s t same.masters) reset_hasSupervisor
      Carried.hasSupervisor observe_hasSupervisor
      (Occurs.keeps_masters State.TableWork.hasSupervisor State.hasSupervisor_of_masters) taken

end Sys2Proof.Machine
end

section
/-! PROOFS. The invariant of one object record: what a handover, a settling period, the removal of a holder, of an entry
and of a watch, and the end of a TU make of it. -/

namespace Sys2Proof.Machine

/-! ### What a handover asks of a record -/

/-- The part of a record's invariant that speaks of its line and its configuration, whatever its state. -/
structure ObjectRec.LineSound (r : ObjectRec) : Prop where
  ordered : LineOrdered r.line
  distinct : LineDistinct r.line
  allowance : r.allowance ≠ 0
  waitRemaining : ∀ e ∈ r.line, e.waitRemaining ≠ some 0
  dueAtOne : ∀ e ∈ r.line, e.due = true → e.waitRemaining = some 1
  modes : r.objClass = .exclusiveOnly → ∀ e ∈ r.line, e.mode = .exclusive

theorem ObjectRec.Inv.lineSound {r : ObjectRec} (h : r.Inv) : r.LineSound :=
  ⟨h.lineOrdered, h.lineDistinct, h.allowance, h.waitRemaining, h.dueAtOne, fun c => (h.exclusiveOnly c).2⟩

/-- Fewer entries are as sound. -/
theorem ObjectRec.LineSound.of_sublist {r r' : ObjectRec} (h : r.LineSound) (line : r'.line.Sublist r.line)
    (allowance : r'.allowance = r.allowance) (objClass : r'.objClass = r.objClass) : r'.LineSound :=
  ⟨h.ordered.sublist line, h.distinct.sublist line, by rw [allowance]; exact h.allowance,
    fun e he => h.waitRemaining e (line.subset he), fun e he => h.dueAtOne e (line.subset he),
    fun c e he => h.modes (objClass ▸ c) e (line.subset he)⟩

/-- Nothing is owed, so no count is owed that the object does not have. -/
theorem ObjectRec.owedCounts_of_none {r : ObjectRec} (h : r.owed = Owed.none) : r.OwedCounts := by
  simp [OwedCounts, h, Owed.none]

/-- A batch is empty only on an empty line. -/
theorem BatchOf.line_eq_nil {line left : List Entry} (h : BatchOf line [] left) : line = [] := by
  cases line with
  | nil => rfl
  | cons e rest =>
    cases mode : e.mode with
    | exclusive => exact absurd (h.exclusive e rfl mode) nofun
    | shared =>
      have head : left.head? = some e := by rw [← List.nil_append left, ← h.split]; rfl
      have := (h.shared e rfl mode).2 e head
      rw [mode] at this
      cases this

/-- What a handover leaves of a record without settle remaining (R41 to R45) is in its row, whatever the record's
holders, tenure and yield were. -/
theorem ObjectRec.handedOver_inv {r : ObjectRec} {batch left : List Entry} (sound : r.LineSound)
    (settle : r.settleRemaining = none) (split : BatchOf r.line batch left) : (r.handedOver batch left).Inv := by
  cases batch with
  | nil =>
    have line : r.line = [] := split.line_eq_nil
    have left_nil : left = [] := by simpa [line] using split.split
    subst left_nil
    exact
      { row := ⟨rfl, rfl, rfl, rfl, settle, rfl⟩
        owed := owedCounts_of_none rfl
        lineOrdered := List.Pairwise.nil
        lineDistinct := List.Pairwise.nil
        noHolderWaits := nofun
        allowance := sound.allowance
        yieldRemaining := nofun
        waitRemaining := nofun
        dueAtOne := nofun
        exclusiveOnly := fun _ => ⟨nofun, nofun⟩ }
  | cons e rest =>
    have line : r.line = (e :: rest) ++ left := split.split
    have fewer : left.Sublist r.line := line ▸ List.sublist_append_right _ _
    have inLine : e ∈ r.line := by rw [line]; simp
    have distinct := sound.distinct
    rw [line, LineDistinct, List.pairwise_append] at distinct
    have row : (r.handedOver (e :: rest) left).Row := by
      cases mode : e.mode with
      | exclusive =>
        have alone : e :: rest = [e] := split.exclusive e (by rw [line]; rfl) mode
        obtain rfl : rest = [] := by simpa using alone
        simp only [Row, handedOver, mode, if_true]
        exact ⟨⟨e.master, setOf_singleton e.master⟩, settle⟩
      | shared =>
        simp only [Row, handedOver, mode, reduceCtorEq, if_false]
        refine ⟨fun none => ?_, settle⟩
        have := (eq_zero_iff_no_member _).mp none e.master
        simp [isMember_setOf] at this
    exact
      { row
        owed := owedCounts_of_none rfl
        lineOrdered := sound.ordered.sublist fewer
        lineDistinct := sound.distinct.sublist fewer
        noHolderWaits := fun x hx => by
          simp only [handedOver, isMember_setOf, decide_eq_false_iff_not, List.mem_map, not_exists, not_and]
          exact fun y hy => distinct.2.2 y hy x hx
        allowance := sound.allowance
        yieldRemaining := fun y pending => by
          simp only [handedOver] at pending
          split at pending
          · cases pending; exact sound.allowance
          · cases pending
        waitRemaining := fun x hx => sound.waitRemaining x (fewer.subset hx)
        dueAtOne := fun x hx => sound.dueAtOne x (fewer.subset hx)
        exclusiveOnly := fun c => by
          refine ⟨?_, fun x hx => sound.modes c x (fewer.subset hx)⟩
          simp [handedOver, sound.modes c e inLine] }

/-- A record that enters SETTLING with a non-zero settle and no holder is in its row (R40). -/
theorem ObjectRec.settling_inv {r : ObjectRec} (sound : r.LineSound) (holders : r.holders = 0) (settle : r.settle ≠ 0) :
    ({ r with
        state := .settling, tenure := 0, yieldPending := none, settleRemaining := some r.settle
        owed := Owed.none } : ObjectRec).Inv where
  row := ⟨holders, rfl, rfl, r.settle, rfl, settle⟩
  owed := owedCounts_of_none rfl
  lineOrdered := sound.ordered
  lineDistinct := sound.distinct
  noHolderWaits e _ := by show isMember r.holders e.master = false; rw [holders]; exact isMember_zero _
  allowance := sound.allowance
  yieldRemaining := nofun
  waitRemaining := sound.waitRemaining
  dueAtOne := sound.dueAtOne
  exclusiveOnly c := ⟨nofun, sound.modes c⟩

/-! ### The removal of a holder -/

/-- A record with a holder is held (Table 1-2). -/
theorem ObjectRec.Row.held_of_member {r : ObjectRec} (row : r.Row) {m : Master} (member : isMember r.holders m = true) :
    (r.state = .heldExclusive ∧ r.holders = single m ∨ r.state = .heldShared) ∧ r.settleRemaining = none := by
  have empty (h : r.holders = 0) : False := by
    rw [h] at member
    cases (isMember_zero m).symm.trans member
  unfold Row at row
  cases state : r.state with
  | offline => rw [state] at row; exact (empty row.1).elim
  | free => rw [state] at row; exact (empty row.1).elim
  | settling => rw [state] at row; exact (empty row.1).elim
  | heldShared => rw [state] at row; exact ⟨.inr rfl, row.2⟩
  | heldExclusive =>
    rw [state] at row
    obtain ⟨⟨k, holders⟩, settle⟩ := row
    rw [holders, isMember_single] at member
    obtain rfl : m = k := of_decide_eq_true member
    exact ⟨.inl ⟨rfl, holders⟩, settle⟩

/-- With another holder left, a record without one of its holders, and with any watch set, is in its row (R35). -/
theorem ObjectRec.Inv.dropShared {r : ObjectRec} (h : r.Inv) {m : Master} (member : isMember r.holders m = true)
    (others : removeMember r.holders m ≠ 0) (watchers : MasterSet) :
    ({ r with holders := removeMember r.holders m, watchers := watchers } : ObjectRec).Inv := by
  obtain ⟨⟨-, alone⟩ | shared, settle⟩ := h.row.held_of_member member
  · refine absurd ((removeMember_eq_zero _ _).mpr fun k hk => ?_) others
    rw [alone, isMember_single] at hk
    exact of_decide_eq_true hk
  · obtain ⟨-, owed, ordered, distinct, apart, allowance, yield, wait, due, modes⟩ := h
    refine ⟨?_, owed, ordered, distinct, fun e he => isMember_removeMember_of_not (apart e he), allowance, yield, wait,
      due, modes⟩
    simp only [Row, shared]
    exact ⟨others, settle⟩

/-- What the removal of a holder leaves (R35, R36, R96, R106), with any watch set, is in its row. -/
theorem ObjectRec.Inv.afterRemoval {r : ObjectRec} (h : r.Inv) {m : Master} (member : isMember r.holders m = true)
    (forced : Bool) (watchers : MasterSet) :
    (({ r with holders := removeMember r.holders m, watchers := watchers } : ObjectRec).afterRemoval forced).Inv := by
  have sound : ({ r with holders := removeMember r.holders m, watchers := watchers } : ObjectRec).LineSound :=
    h.lineSound.of_sublist (.refl _) rfl rfl
  unfold ObjectRec.afterRemoval
  split
  · rename_i empty
    split
    · rename_i settles
      rw [Bool.and_eq_true] at settles
      exact settling_inv sound (by simpa using empty) (by simpa using settles.2)
    · exact handedOver_inv sound (h.row.held_of_member member).2 (batchOf_grantedEntries _)
  · rename_i others
    exact h.dropShared member (by simpa using others) watchers

/-! ### Fewer entries and watchers -/

/-- A record with fewer entries, and with a watch set that is empty where it was, is in its row. -/
theorem ObjectRec.Inv.fewer {r : ObjectRec} (h : r.Inv) {line : List Entry} (sublist : line.Sublist r.line)
    {watchers : MasterSet} (watching : r.watchers = 0 → watchers = 0) :
    ({ r with line := line, watchers := watchers } : ObjectRec).Inv := by
  obtain ⟨row, owed, ordered, distinct, apart, allowance, yield, wait, due, modes⟩ := h
  refine ⟨?_, owed, ordered.sublist sublist, distinct.sublist sublist, fun e he => apart e (sublist.subset he), allowance,
    yield, fun e he => wait e (sublist.subset he), fun e he => due e (sublist.subset he),
    fun c => ⟨(modes c).1, fun e he => (modes c).2 e (sublist.subset he)⟩⟩
  unfold Row at row ⊢
  have idle (h : r.holders = 0 ∧ r.line = [] ∧ r.tenure = 0 ∧ r.yieldPending = none ∧ r.settleRemaining = none ∧
      r.watchers = 0) : r.holders = 0 ∧ line = [] ∧ r.tenure = 0 ∧ r.yieldPending = none ∧ r.settleRemaining = none ∧
      watchers = 0 := by
    obtain ⟨holders, empty, tenure, yield, settle, unwatched⟩ := h
    exact ⟨holders, List.sublist_nil.mp (empty ▸ sublist), tenure, yield, settle, watching unwatched⟩
  cases state : r.state with
  | offline => rw [state] at row; exact idle row
  | free => rw [state] at row; exact idle row
  | _ => rw [state] at row; exact row

theorem removeMember_zero (m : Master) : removeMember 0 m = 0 := removeMember_of_not_member (isMember_zero m)

/-- A record without the entries and the watch of `m` is in its row. -/
theorem ObjectRec.Inv.dropWait {r : ObjectRec} (h : r.Inv) (m : Master) : (r.dropWait m).Inv :=
  h.fewer (watchers := r.watchers) List.filter_sublist id

/-! ### A record whose holders a deadline has removed -/

/-- A record between the removal of its holders and its handover: no row of Table 1-2, since the state is still that of
the tenure, but all that the handover asks. -/
structure ObjectRec.Emptied (r : ObjectRec) : Prop where
  sound : r.LineSound
  holders : r.holders = 0
  tenure : r.tenure = 0
  yieldPending : r.yieldPending = none
  settleRemaining : r.settleRemaining = none
  owed : r.owed = Owed.none

/-! ### The end of a TU -/

/-- What an object owes at the end of a TU are counts it has. -/
theorem ObjectRec.owe_inv {r : ObjectRec} (h : r.Inv) : r.owe.Inv := by
  obtain ⟨row, -, ordered, distinct, apart, allowance, yield, wait, due, modes⟩ := h
  refine ⟨row, ⟨fun settle => ?_, fun yield => ?_, id⟩, ordered, distinct, apart, allowance, yield, wait, due, modes⟩
  · exact beq_iff_eq.mp settle
  · exact (Bool.and_eq_true _ _ ▸ yield : r.isHeld = true ∧ r.yieldPending.isSome = true)

/-- A count of 8 bits that is neither 0 nor 1 is not 0 after its fall. -/
theorem fall_ne_zero {n : BitVec 8} (one : n ≠ 1) : n - 1 ≠ 0 := by
  intro h
  exact one (by bv_omega)

/-- The advance of the counts owed keeps the record in its row, where neither settle nor yield remaining falls from 1. -/
theorem ObjectRec.advanceOwed_inv {r : ObjectRec} (h : r.Inv) (noSettle : r.settleFallsOut = false)
    (noDeadline : r.yieldFallsOut = false) : r.advanceOwed.Inv := by
  obtain ⟨row, ⟨settles, yields, rises⟩, ordered, distinct, apart, allowance, yield, wait, due, modes⟩ := h
  refine ⟨?_, owedCounts_of_none rfl, ordered, distinct, apart, allowance, ?_, wait, due, modes⟩
  · have notSettling (h : r.state ≠ .settling) : r.owed.settle = false := by
      by_contra owes; exact h (settles (by simpa using owes))
    have notHeld (h : r.isHeld = false) : r.owed.yield = false ∧ r.owed.tenure = false := by
      constructor
      · by_contra owes; simp [(yields (by simpa using owes)).1] at h
      · by_contra owes; simp [rises (by simpa using owes)] at h
    unfold Row at row ⊢
    unfold advanceOwed
    cases state : r.state with
    | offline =>
      rw [state] at row
      obtain ⟨yieldOwed, tenureOwed⟩ := notHeld (by simp [isHeld, state])
      simpa [notSettling (by simp [state]), yieldOwed, tenureOwed] using row
    | free =>
      rw [state] at row
      obtain ⟨yieldOwed, tenureOwed⟩ := notHeld (by simp [isHeld, state])
      simpa [notSettling (by simp [state]), yieldOwed, tenureOwed] using row
    | heldExclusive => rw [state] at row; simpa [notSettling (by simp [state])] using row
    | heldShared => rw [state] at row; simpa [notSettling (by simp [state])] using row
    | settling =>
      rw [state] at row
      obtain ⟨yieldOwed, tenureOwed⟩ := notHeld (by simp [isHeld, state])
      obtain ⟨holders, tenure, pending, n, settle, nonzero⟩ := row
      refine ⟨holders, by simp [tenureOwed, tenure], by simp [pending], ?_⟩
      cases owes : r.owed.settle with
      | false => exact ⟨n, by simp [settle], nonzero⟩
      | true =>
        have above : n ≠ 1 := by rintro rfl; simp [settleFallsOut, owes, settle] at noSettle
        exact ⟨n - 1, by simp [settle], fall_ne_zero above⟩
  · intro y pending
    simp only [advanceOwed] at pending
    cases owes : r.owed.yield with
    | false =>
      simp only [owes, Bool.false_eq_true, if_false] at pending
      exact yield y pending
    | true =>
      simp only [owes, if_true, Option.map_eq_some_iff] at pending
      obtain ⟨x, was, rfl⟩ := pending
      have above : x.remaining ≠ 1 := by
        intro one
        simp [yieldFallsOut, owes, was, one] at noDeadline
      exact fall_ne_zero above

theorem ObjectRec.timeUnitEnds_inv {r : ObjectRec} (h : r.Inv) : r.timeUnitEnds.Inv := by
  unfold timeUnitEnds
  split
  · exact owe_inv h
  · rename_i none
    have none : r.owe.expires = false := by simpa using none
    simp only [expires, Bool.or_eq_false_iff] at none
    exact advanceOwed_inv (owe_inv h) none.1.1.1 none.1.1.2

@[simp] theorem Entry.timeUnitEnds_master (e : Entry) : e.timeUnitEnds.master = e.master := by
  unfold timeUnitEnds; split
  · rfl
  · split <;> rfl

@[simp] theorem Entry.timeUnitEnds_mode (e : Entry) : e.timeUnitEnds.mode = e.mode := by
  unfold timeUnitEnds; split
  · rfl
  · split <;> rfl

@[simp] theorem Entry.timeUnitEnds_priority (e : Entry) : e.timeUnitEnds.priority = e.priority := by
  unfold timeUnitEnds; split
  · rfl
  · split <;> rfl

/-- The wait of an entry after the end of a TU: never 0, and owed its fall only at 1 (R59; log 3). -/
theorem Entry.timeUnitEnds_wait {e : Entry} (wait : e.waitRemaining ≠ some 0)
    (due : e.due = true → e.waitRemaining = some 1) :
    e.timeUnitEnds.waitRemaining ≠ some 0 ∧ (e.timeUnitEnds.due = true → e.timeUnitEnds.waitRemaining = some 1) := by
  unfold timeUnitEnds
  split
  · exact ⟨wait, due⟩
  · rename_i n limit
    split
    · rename_i one
      rw [beq_iff_eq] at one
      exact ⟨wait, fun _ => by rw [limit, one]⟩
    · rename_i above
      have above : n ≠ 1 := by simpa using above
      refine ⟨fun zero => ?_, fun owes => ?_⟩
      · have zero : n - 1 = 0 := by simpa using zero
        exact above (by bv_omega)
      · have := due owes
        rw [limit] at this
        exact absurd (by simpa using this) above

theorem ObjectRec.lineTimeUnitEnds_inv {r : ObjectRec} (h : r.Inv) : r.lineTimeUnitEnds.Inv := by
  obtain ⟨row, owed, ordered, distinct, apart, allowance, yield, wait, due, modes⟩ := h
  have each {P : Entry → Prop} (keeps : ∀ e ∈ r.line, P e.timeUnitEnds) : ∀ e ∈ r.lineTimeUnitEnds.line, P e := by
    intro e he
    obtain ⟨x, hx, rfl⟩ := List.mem_map.mp he
    exact keeps x hx
  refine ⟨?_, owed, ?_, ?_, each fun e he => ?_, allowance, yield,
    each fun e he => (Entry.timeUnitEnds_wait (wait e he) (due e he)).1,
    each fun e he => (Entry.timeUnitEnds_wait (wait e he) (due e he)).2,
    fun c => ⟨(modes c).1, each fun e he => by rw [Entry.timeUnitEnds_mode]; exact (modes c).2 e he⟩⟩
  · unfold Row lineTimeUnitEnds at *
    cases state : r.state <;> simp_all
  · unfold LineOrdered lineTimeUnitEnds
    rw [List.pairwise_map]
    simp only [Entry.timeUnitEnds_priority]
    exact ordered
  · unfold LineDistinct lineTimeUnitEnds
    rw [List.pairwise_map]
    simp only [Entry.timeUnitEnds_master]
    exact distinct
  · rw [Entry.timeUnitEnds_master]
    exact apart e he

end Sys2Proof.Machine
end

section
/-! PROOFS. Scores, standings and the first stage of a deadline: what a change of score does to a master's record, and
what the removal of every holder leaves (R78, R91, R92). -/

namespace Sys2Proof.Machine

/-! ### Scores and standings -/

theorem raiseScore_toNat (score : BitVec 8) (n : Nat) : (raiseScore score n).toNat = min 255 (score.toNat + n) := by
  rw [raiseScore, BitVec.toNat_ofNat, Nat.mod_eq_of_lt]
  omega

theorem creditScore_toNat (score : BitVec 8) : (creditScore score).toNat = score.toNat - 1 := by
  unfold creditScore
  split
  · rename_i zero
    rw [beq_iff_eq] at zero
    simp [zero]
  · rename_i nonzero
    have nonzero : score ≠ 0 := by simpa using nonzero
    bv_omega

/-- A score of 192 and more gives BARRED (Table 5-3). -/
theorem standingOf_eq_barred_iff (score : BitVec 8) : standingOf score = .barred ↔ 192 ≤ score.toNat := by
  have order (n : BitVec 8) : score < n ↔ score.toNat < n.toNat := BitVec.lt_def
  unfold standingOf
  simp only [order]
  split
  · rename_i low; simp at low ⊢; omega
  · split
    · rename_i low; simp at low ⊢; omega
    · split
      · rename_i low; simp at low ⊢; omega
      · rename_i high; simp at high ⊢; omega

theorem standingOf_raiseScore_of_barred {score : BitVec 8} (h : standingOf score = .barred) (n : Nat) :
    standingOf (raiseScore score n) = .barred := by
  have := score.isLt
  rw [standingOf_eq_barred_iff] at h ⊢
  rw [raiseScore_toNat]
  omega

/-- The recomputed standing is the score's, if a BARRED master's score still gives BARRED (R92). -/
theorem recomputeStanding_eq {before : Standing} {score : BitVec 8}
    (h : before = .barred → standingOf score = .barred) : recomputeStanding before score = standingOf score := by
  unfold recomputeStanding
  split
  · rename_i barred
    exact (h (by simpa using barred)).symm
  · rfl

/-- The three courses of a change of score: the standing stands, or it becomes BARRED and the cascade runs, or it
becomes another and STANDING is posted (R92). -/
theorem changeScore_cases (m : Master) (score : BitVec 8) (s : State) :
    let now := recomputeStanding (s.mst m).standing score
    let charged := s.modMst m fun r => r.withScore score
    (now = (s.mst m).standing ∧ changeScore m score s = charged) ∨
      (now ≠ (s.mst m).standing ∧ now = .barred ∧ changeScore m score s = cascade m charged) ∨
      (now ≠ (s.mst m).standing ∧ now ≠ .barred ∧
        changeScore m score s = charged.post m (.standing now score)) := by
  have reads : ((s.modMst m fun r => r.withScore score).mst m).standing =
      recomputeStanding (s.mst m).standing score := by rw [State.modMst_mst_self]; rfl
  unfold changeScore
  simp only [reads]
  by_cases same : recomputeStanding (s.mst m).standing score = (s.mst m).standing
  · exact .inl ⟨same, by simp [same]⟩
  · by_cases barred : recomputeStanding (s.mst m).standing score = .barred
    · exact .inr (.inl ⟨same, barred, by rw [if_neg (by simpa using same), if_pos (by simpa using barred)]⟩)
    · exact .inr (.inr ⟨same, barred, by rw [if_neg (by simpa using same), if_neg (by simpa using barred)]⟩)

/-! ### The charge of a deadline -/

/-- What one removal within a deadline makes of master `k`: REVOKED(DEADLINE) to the holder removed,
FAULT_NOTICE(DEADLINE) to a supervisor, and the holder's charge (R78). -/
def MasterRec.deadlineRecord (x : MasterRec) (o : ObjNum) (h k : Master) : MasterRec :=
  let revoked := if k = h then x.post (.revoked o .deadline) else x
  let noticed := if revoked.supervisor then revoked.post (.faultDeadline h o) else revoked
  if k = h then noticed.deadlineCharged else noticed

theorem MasterRec.deadlineRecords_cons (x : MasterRec) (o : ObjNum) (h : Master) (hs : List Master) (k : Master) :
    x.deadlineRecords o (h :: hs) k = (x.deadlineRecord o h k).deadlineRecords o hs k := rfl

/-- The charge within a deadline, as a change of score with its STANDING held back for BARRED (R98). -/
theorem MasterRec.deadlineCharged_eq (x : MasterRec) :
    x.deadlineCharged =
      let charged := x.withScore (raiseScore x.score deadlineCharge)
      if charged.standing == x.standing || charged.standing == .barred then charged
      else charged.post (.standing charged.standing charged.score) := by
  have now : (if x.standing = .barred then Standing.barred else standingOf (raiseScore x.score deadlineCharge)) =
      recomputeStanding x.standing (raiseScore x.score deadlineCharge) := by
    unfold recomputeStanding; simp only [beq_iff_eq]
  have spelled : BitVec.ofNat 8 (min 255 (x.score.toNat + 24)) = raiseScore x.score deadlineCharge := rfl
  unfold deadlineCharged
  simp only [spelled, now, Bool.or_eq_true, beq_iff_eq]
  rfl

theorem deadlineChargeHolder_mst (h : Master) (s : State) (k : Master) :
    (deadlineChargeHolder h s).mst k = if k = h then (s.mst h).deadlineCharged else s.mst k := by
  rw [MasterRec.deadlineCharged_eq]
  unfold deadlineChargeHolder
  simp only [State.modMst_mst_self]
  by_cases own : k = h
  · subst own
    rw [if_pos rfl]
    split
    · exact State.modMst_mst_self _ _ _
    · rw [State.post_mst_self, State.modMst_mst_self]
      rfl
  · rw [if_neg own]
    split
    · exact State.modMst_mst_ne _ own _
    · rw [State.post_mst_ne _ own, State.modMst_mst_ne _ own]

@[simp] theorem deadlineChargeHolder_obj (h : Master) (s : State) (o : ObjNum) :
    (deadlineChargeHolder h s).obj o = s.obj o := by
  unfold deadlineChargeHolder
  dsimp only
  split <;> rfl

theorem deadlineChargeHolder_poolFree (h : Master) (s : State) : (deadlineChargeHolder h s).poolFree = s.poolFree := by
  unfold deadlineChargeHolder
  dsimp only
  split <;> rfl

/-! ### The removal of the holders -/

theorem deadlineRemove_mst (o : ObjNum) (s : State) (h k : Master) :
    (deadlineRemove o s h).mst k = (s.mst k).deadlineRecord o h k := by
  unfold deadlineRemove MasterRec.deadlineRecord
  dsimp only
  rw [deadlineChargeHolder_mst, State.postSupervisors_mst, State.postSupervisors_mst, State.post_mst, State.post_mst]
  simp only [State.modObj_mst]
  by_cases own : k = h
  · subst own; simp only [if_true]
  · simp only [own, if_false]

theorem deadlineRemove_obj (o : ObjNum) (s : State) (h : Master) :
    (deadlineRemove o s h).obj o =
      { s.obj o with
        holders := removeMember (s.obj o).holders h, revokeCount := saturatingRise8 (s.obj o).revokeCount } := by
  simp [deadlineRemove, ObjectRec.dropHolder]

theorem deadlineRemove_only (o : ObjNum) (s : State) (h : Master) : State.OnlyObject o s (deadlineRemove o s h) :=
  fun p hp => by simp [deadlineRemove, State.modObj_obj_ne _ hp]

theorem deadlineRemove_poolFree (o : ObjNum) (s : State) (h : Master) : (deadlineRemove o s h).poolFree = s.poolFree := by
  rw [deadlineRemove, deadlineChargeHolder_poolFree, State.postSupervisors_poolFree]
  rfl

/-- The revoke count after `n` removals. -/
def revokeCountAfter : Nat → BitVec 8 → BitVec 8
  | 0, c => c
  | n + 1, c => revokeCountAfter n (saturatingRise8 c)

theorem saturatingRise8_toNat (c : BitVec 8) : (saturatingRise8 c).toNat = min 255 (c.toNat + 1) := by
  unfold saturatingRise8
  split
  · rename_i top
    rw [beq_iff_eq] at top
    simp [top]
  · rename_i below
    have below : c ≠ 255#8 := by simpa using below
    bv_omega

theorem revokeCountAfter_toNat (n : Nat) (c : BitVec 8) : (revokeCountAfter n c).toNat = min 255 (c.toNat + n) := by
  induction n generalizing c with
  | zero =>
    have := c.isLt
    show c.toNat = _
    omega
  | succ n ih =>
    rw [revokeCountAfter, ih, saturatingRise8_toNat]
    omega

/-- The removal of a list of holders (R78). -/
theorem foldl_deadlineRemove (o : ObjNum) (hs : List Master) (s : State) :
    (hs.foldl (deadlineRemove o) s).obj o =
        { s.obj o with
          holders := hs.foldl removeMember (s.obj o).holders
          revokeCount := revokeCountAfter hs.length (s.obj o).revokeCount } ∧
      State.OnlyObject o s (hs.foldl (deadlineRemove o) s) ∧
      (hs.foldl (deadlineRemove o) s).poolFree = s.poolFree ∧
      ∀ k, (hs.foldl (deadlineRemove o) s).mst k = (s.mst k).deadlineRecords o hs k := by
  induction hs generalizing s with
  | nil => exact ⟨rfl, .refl o s, rfl, fun _ => rfl⟩
  | cons h hs ih =>
    obtain ⟨obj, only, pool, mst⟩ := ih (deadlineRemove o s h)
    rw [deadlineRemove_obj] at obj
    refine ⟨obj, (deadlineRemove_only o s h).trans only, pool.trans (deadlineRemove_poolFree o s h), fun k => ?_⟩
    rw [List.foldl_cons, mst, deadlineRemove_mst, MasterRec.deadlineRecords_cons]

theorem isMember_foldl_removeMember (hs : List Master) (ms : MasterSet) (k : Master) :
    isMember (hs.foldl removeMember ms) k = (isMember ms k && !decide (k ∈ hs)) := by
  induction hs generalizing ms with
  | nil => simp
  | cons h hs ih =>
    rw [List.foldl_cons, ih, isMember_removeMember]
    simp [Bool.and_assoc]

/-- With every member removed a set is empty. -/
theorem foldl_removeMember_members (ms : MasterSet) : (members ms).foldl removeMember ms = 0 := by
  rw [eq_zero_iff_no_member]
  intro k
  rw [isMember_foldl_removeMember]
  cases member : isMember ms k <;> simp [member]

/-- The first stage of a deadline, all of it (R78): no holder is left, the tenure and the yield are over, the revoke count
has risen by one for each, and the masters are posted and charged in turn. -/
theorem deadlineFirstStage_spec (o : ObjNum) (s : State) :
    (deadlineFirstStage o s).obj o =
        { s.obj o with
          holders := 0, tenure := 0, yieldPending := none, owed := Owed.none
          revokeCount := revokeCountAfter (members (s.obj o).holders).length (s.obj o).revokeCount } ∧
      State.OnlyObject o s (deadlineFirstStage o s) ∧ (deadlineFirstStage o s).poolFree = s.poolFree ∧
      ∀ k, (deadlineFirstStage o s).mst k = (s.mst k).deadlineRecords o (members (s.obj o).holders) k := by
  obtain ⟨obj, only, pool, mst⟩ := foldl_deadlineRemove o (members (s.obj o).holders)
    (s.modObj o fun r => { r with yieldPending := none })
  unfold deadlineFirstStage
  refine ⟨?_, ?_, pool, mst⟩
  · rw [State.modObj_obj_self, obj, State.modObj_obj_self]
    simp only [ObjectRec.endTenure, foldl_removeMember_members]
  · exact ((s.modObj_only o _).trans only).trans (State.modObj_only _ o _)

/-! ### Scores and standings after the first stage -/

theorem MasterRec.deadlineCharged_conduct (x : MasterRec) :
    x.deadlineCharged.score = raiseScore x.score deadlineCharge ∧
      x.deadlineCharged.standing = recomputeStanding x.standing (raiseScore x.score deadlineCharge) ∧
      x.deadlineCharged.quota = x.quota ∧ x.deadlineCharged.supervisor = x.supervisor ∧
      x.deadlineCharged.attention = x.attention := by
  rw [deadlineCharged_eq]
  dsimp only
  split <;> simp [withScore]

theorem MasterRec.deadlineRecord_conduct (x : MasterRec) (o : ObjNum) (h k : Master) :
    (x.deadlineRecord o h k).score = (if k = h then raiseScore x.score deadlineCharge else x.score) ∧
      (x.deadlineRecord o h k).standing =
        (if k = h then recomputeStanding x.standing (raiseScore x.score deadlineCharge) else x.standing) ∧
      (x.deadlineRecord o h k).quota = x.quota ∧ (x.deadlineRecord o h k).supervisor = x.supervisor ∧
      (x.deadlineRecord o h k).attention = x.attention := by
  have noticed (y : MasterRec) : y.SameConduct (if y.supervisor then y.post (.faultDeadline h o) else y) := by
    split
    · exact sameConduct_post _ _
    · exact .refl _
  unfold deadlineRecord
  by_cases own : k = h
  · simp only [own, if_true]
    obtain ⟨score, standing, quota, supervisor, attention⟩ :=
      (sameConduct_post x (.revoked o .deadline)).trans (noticed _)
    obtain ⟨score', standing', quota', supervisor', attention'⟩ := deadlineCharged_conduct
      (if (x.post (.revoked o .deadline)).supervisor then
        (x.post (.revoked o .deadline)).post (.faultDeadline h o) else x.post (.revoked o .deadline))
    rw [score', standing', quota', supervisor', attention', score, standing, quota, supervisor, attention]
    exact ⟨rfl, rfl, rfl, rfl, rfl⟩
  · simp only [own, if_false]
    exact noticed x

/-- Of the masters in the list each is charged once, and no other is (R78). -/
theorem MasterRec.deadlineRecords_conduct {hs : List Master} (nodup : hs.Nodup) (x : MasterRec) (o : ObjNum)
    (k : Master) :
    (x.deadlineRecords o hs k).score = (if k ∈ hs then raiseScore x.score deadlineCharge else x.score) ∧
      (x.deadlineRecords o hs k).standing =
        (if k ∈ hs then recomputeStanding x.standing (raiseScore x.score deadlineCharge) else x.standing) ∧
      (x.deadlineRecords o hs k).quota = x.quota ∧ (x.deadlineRecords o hs k).supervisor = x.supervisor ∧
      (x.deadlineRecords o hs k).attention = x.attention := by
  induction hs generalizing x with
  | nil => simp [deadlineRecords]
  | cons h hs ih =>
    obtain ⟨fresh, nodup⟩ := List.nodup_cons.mp nodup
    rw [deadlineRecords_cons]
    obtain ⟨score, standing, quota, supervisor, attention⟩ := ih nodup (x.deadlineRecord o h k)
    obtain ⟨score', standing', quota', supervisor', attention'⟩ := x.deadlineRecord_conduct o h k
    rw [score, standing, quota, supervisor, attention, score', standing', quota', supervisor', attention']
    by_cases own : k = h
    · subst own; simp [fresh]
    · simp [own]

end Sys2Proof.Machine
end

section
/-! PROOFS. The invariant of the part: records in their rows, standing by score, and a BARRED master with no part in any
object are kept by every kind of step; the rest of the invariant follows from what the work of the tables keeps. -/

namespace Sys2Proof.Machine

/-! ### The part of the invariant that speaks of objects and standings -/

/-- Every record is in its row, every standing is its score's, and a BARRED master has no part in any object. -/
structure State.Sound (s : State) : Prop where
  objects : ∀ o, (s.obj o).Inv
  standing : s.StandingFromScore
  barred : s.BarredHoldsNothing

theorem State.holdsNothing_iff (s : State) (m : Master) : s.HoldsNothing m ↔ ∀ o, (s.obj o).Stranger m := by
  refine forall_congr' fun o => ⟨fun ⟨holds, waits, watches⟩ => ?_, fun ⟨holds, waits, watches⟩ => ?_⟩
  · exact ⟨holds, fun e he => by simpa using List.any_eq_false.mp waits e he, watches⟩
  · exact ⟨holds, List.any_eq_false.mpr fun e he => by simpa using waits e he, watches⟩

theorem State.Sound.noHolderWaits {s : State} (h : s.Sound) : s.NoHolderWaits := fun o => (h.objects o).noHolderWaits

theorem State.Sound.stranger {s : State} (h : s.Sound) {m : Master} (barred : (s.mst m).standing = .barred)
    (o : ObjNum) : (s.obj o).Stranger m := (s.holdsNothing_iff m).mp (h.barred m barred) o

/-- A holder is not BARRED (R91). -/
theorem State.Sound.not_barred_of_member {s : State} (h : s.Sound) {m : Master} {o : ObjNum}
    (member : isMember (s.obj o).holders m = true) : (s.mst m).standing ≠ .barred := fun barred => by
  rw [(h.stranger barred o).holds] at member
  cases member

/-- Work of the tables that keeps scores and standings keeps the part sound, if it keeps every record in its row. -/
theorem State.Sound.of_work {s t : State} (h : s.Sound) (work : s.TableWork t) (objects : ∀ o, (t.obj o).Inv)
    (score : ∀ m, (t.mst m).score = (s.mst m).score) (standing : ∀ m, (t.mst m).standing = (s.mst m).standing) :
    t.Sound where
  objects := objects
  standing m := by rw [score, standing]; exact h.standing m
  barred m barred := work.holdsNothing (h.barred m (by rw [← standing]; exact barred))

/-- The same for work at one object. -/
theorem State.Sound.of_workAt {s t : State} (h : s.Sound) {o : ObjNum} (work : s.TableWork t) (conduct : s.ObjectWork t)
    (only : State.OnlyObject o s t) (inv : (t.obj o).Inv) : t.Sound := by
  refine h.of_work work (fun p => ?_) (fun m => (conduct.conduct m).1) fun m => (conduct.conduct m).2.1
  by_cases e : p = o
  · subst e; exact inv
  · rw [only p e]; exact h.objects p

/-- Work that changes no object record and no score or standing. -/
theorem State.Sound.of_objects {s t : State} (h : s.Sound) (objects : t.objects = s.objects)
    (score : ∀ m, (t.mst m).score = (s.mst m).score) (standing : ∀ m, (t.mst m).standing = (s.mst m).standing) :
    t.Sound := by
  have obj (o : ObjNum) : t.obj o = s.obj o := by unfold State.obj; rw [objects]
  refine ⟨fun o => by rw [obj]; exact h.objects o, fun m => by rw [score, standing]; exact h.standing m,
    fun m barred => ?_⟩
  rw [standing] at barred
  exact (State.holdsNothing_iff _ _).mpr fun o => by rw [obj]; exact h.stranger barred o

/-- A change of one record that leaves it in its row and lets no BARRED master in. -/
theorem State.Sound.modObj {s : State} (h : s.Sound) {o : ObjNum} {f : ObjectRec → ObjectRec} (inv : (f (s.obj o)).Inv)
    (strangers : ∀ m, (s.mst m).standing = .barred → (f (s.obj o)).Stranger m) : (s.modObj o f).Sound where
  objects p := by
    rw [State.modObj_obj]; split
    · exact inv
    · exact h.objects p
  standing := h.standing
  barred m barred := (State.holdsNothing_iff _ _).mpr fun p => by
    rw [State.modObj_obj]; split
    · exact strangers m barred
    · exact h.stranger barred p

theorem State.Sound.post {s : State} (h : s.Sound) (m : Master) (n : Notice) : (s.post m n).Sound :=
  h.of_objects rfl (fun k => ((s.post_work m n).conduct k).1) fun k => ((s.post_work m n).conduct k).2.1

/-! ### The cascade -/

/-- The removal of a master from every object leaves each record that was in its row in its row. -/
theorem State.WithoutMaster.inv {n : Master} {forced : Bool} {s t : State} {batch left : ObjNum → List Entry}
    (w : s.WithoutMaster n forced t batch left) {o : ObjNum} (h : (s.obj o).Inv) : (t.obj o).Inv := by
  cases member : isMember (s.obj o).holders n with
  | false =>
    rw [w.notHeld o member]
    simp only [ObjectRec.without, removeMember_of_not_member member]
    exact h.fewer List.filter_sublist fun none => by rw [none]; exact removeMember_zero n
  | true =>
    have sound : ((s.obj o).without n).LineSound := h.lineSound.of_sublist (.refl _) rfl rfl
    cases alone : (s.obj o).heldAloneBy n with
    | false =>
      rw [w.heldWithOthers o member alone]
      exact h.dropShared member (by simpa [ObjectRec.heldAloneBy, member] using alone) _
    | true =>
      have empty : ((s.obj o).without n).holders = 0 := by
        simpa [ObjectRec.heldAloneBy, ObjectRec.without, member] using alone
      cases goesOn : (s.obj o).handsOverWithout n forced with
      | false =>
        rw [w.settles o alone goesOn]
        refine ObjectRec.settling_inv sound empty ?_
        simp only [ObjectRec.handsOverWithout, alone, Bool.true_and, Bool.or_eq_false_iff] at goesOn
        exact beq_eq_false_iff_ne.mp goesOn.2
      | true =>
        obtain ⟨split, obj⟩ := w.handsOver o goesOn
        rw [obj]
        exact ObjectRec.handedOver_inv sound (h.row.held_of_member member).2 split

/-- It leaves a record emptied by a deadline emptied. -/
theorem State.WithoutMaster.emptied {n : Master} {forced : Bool} {s t : State} {batch left : ObjNum → List Entry}
    (w : s.WithoutMaster n forced t batch left) {o : ObjNum} (h : (s.obj o).Emptied) : (t.obj o).Emptied := by
  obtain ⟨sound, holders, tenure, yield, settle, owed⟩ := h
  rw [w.notHeld o (by rw [holders]; exact isMember_zero n)]
  refine ⟨sound.of_sublist List.filter_sublist rfl rfl, ?_, tenure, yield, settle, owed⟩
  simp only [ObjectRec.without, holders]
  exact removeMember_zero n

/-- The cascade of a master that may be BARRED already makes the part sound again (R95 to R97). -/
theorem cascade_sound {m : Master} {s : State} (objects : ∀ o, (s.obj o).Inv) (standing : s.StandingFromScore)
    (others : ∀ k, k ≠ m → (s.mst k).standing = .barred → s.HoldsNothing k) : (cascade m s).Sound := by
  have apart : s.NoHolderWaits := fun o => (objects o).noHolderWaits
  have cut := (cascade_cutOff m s apart).objects
  have conduct := (cascade_work m s).conduct
  refine ⟨fun o => cut.inv (objects o), fun k => ?_, fun k barred => ?_⟩
  · rw [(conduct k).1, (conduct k).2.1]; exact standing k
  · by_cases e : k = m
    · subst e; exact cut.holdsNothing apart
    · rw [(conduct k).2.1] at barred
      exact (cascade_tableWork m s).holdsNothing (others k e barred)

/-! ### Changes of score -/

/-- A change of score keeps the part sound, if it lets no BARRED master's score below BARRED (R92). -/
theorem changeScore_sound {m : Master} {score : BitVec 8} {s : State} (h : s.Sound)
    (keeps : (s.mst m).standing = .barred → standingOf score = .barred) : (changeScore m score s).Sound := by
  have now := recomputeStanding_eq keeps
  have record (k : Master) : (s.modMst m fun r => r.withScore score).mst k =
      if k = m then { s.mst m with score := score, standing := standingOf score } else s.mst k := by
    rw [State.modMst_mst, ← now]; rfl
  have standing : (s.modMst m fun r => r.withScore score).StandingFromScore := fun k => by
    rw [record]; split
    · rfl
    · exact h.standing k
  have others (k : Master) (ne : k ≠ m) (barred : ((s.modMst m fun r => r.withScore score).mst k).standing = .barred) :
      (s.modMst m fun r => r.withScore score).HoldsNothing k := by
    rw [record, if_neg ne] at barred
    exact h.barred k barred
  have charged (unbarred : standingOf score = .barred → (s.mst m).standing = .barred) :
      (s.modMst m fun r => r.withScore score).Sound := by
    refine ⟨h.objects, standing, fun k barred => ?_⟩
    by_cases e : k = m
    · subst e
      rw [record, if_pos rfl] at barred
      exact h.barred k (unbarred barred)
    · exact others k e barred
  obtain ⟨same, eq⟩ | ⟨-, -, eq⟩ | ⟨-, notBarred, eq⟩ := changeScore_cases m score s
  · rw [eq]
    exact charged fun barred => by rw [← same, now, barred]
  · rw [eq]
    exact cascade_sound h.objects standing others
  · rw [eq]
    exact (charged fun barred => absurd (now.trans barred) notBarred).post m _

/-- A credit keeps the part sound, if the master is not BARRED (R37). -/
theorem credit_sound {m : Master} {s : State} (h : s.Sound) (notBarred : (s.mst m).standing ≠ .barred) :
    (credit m s).Sound := changeScore_sound h fun barred => absurd barred notBarred

/-- A charge keeps the part sound, since a score that gives BARRED only rises. -/
theorem raise_sound {m : Master} {n : Nat} {s : State} (h : s.Sound) :
    (changeScore m (raiseScore (s.mst m).score n) s).Sound :=
  changeScore_sound h fun barred => standingOf_raiseScore_of_barred (by rw [← h.standing m]; exact barred) n

theorem readmitMaster_sound {n : Master} {s : State} (h : s.Sound) : (readmitMaster n s).Sound := by
  have cleared : (s.modMst n fun r => { r with score := 0, standing := .good }).Sound := by
    refine ⟨h.objects, fun k => ?_, fun k barred => ?_⟩
    · rw [State.modMst_mst]; split
      · rfl
      · exact h.standing k
    · rw [State.modMst_mst] at barred
      split at barred
      · cases barred
      · exact h.barred k barred
  unfold readmitMaster
  dsimp only
  split
  · exact cleared
  · exact cleared.post n _

theorem barMaster_sound {n : Master} {s : State} (h : s.Sound) : (barMaster n s).Sound := by
  unfold barMaster
  split
  · exact h
  · refine cascade_sound h.objects (fun k => ?_) fun k ne barred => ?_
    · rw [State.modMst_mst]; split
      · refine ((standingOf_eq_barred_iff _).mpr ?_).symm
        show 192 ≤ (if (s.mst n).score < barScore then barScore else (s.mst n).score).toNat
        split
        · exact Nat.le_refl _
        · rename_i high
          exact Nat.not_lt.mp high
      · exact h.standing k
    · rw [State.modMst_mst_ne _ ne] at barred
      exact h.barred k barred

theorem standingAdmitted_sound {w : Word} {s : State} (h : s.Sound) : (standingAdmitted w s).Sound := by
  unfold standingAdmitted; split
  · exact readmitMaster_sound h
  · exact barMaster_sound h

/-! ### The port writes at one object -/

theorem releaseHold_work (m : Master) (o : ObjNum) (s : State) : s.ObjectWork (releaseHold m o s) :=
  clearHold_work m s o

theorem releaseHold_sound {m : Master} {o : ObjNum} {s : State} (h : s.Sound)
    (member : isMember (s.obj o).holders m = true) : (releaseHold m o s).Sound := by
  refine h.of_workAt (o := o) (releaseHold_tableWork m o s) (releaseHold_work m o s)
    ((s.modObj_only o _).trans (afterRemoval_only false o _)) ?_
  rw [releaseHold, (afterRemoval_obj_mst false o _).1, State.modObj_obj_self]
  exact (h.objects o).afterRemoval member false (s.obj o).watchers

theorem removeWaiter_sound {m : Master} {o : ObjNum} {s : State} (h : s.Sound) : (s.removeWaiter o m).Sound := by
  refine h.of_workAt (o := o) (s.removeWaiter_tableWork o m) (s.removeWaiter_work o m) (s.removeWaiter_only o m) ?_
  rw [State.removeWaiter_dropWait]
  exact (h.objects o).dropWait m

theorem dropWatch_sound {m : Master} {o : ObjNum} {s : State} (h : s.Sound) : (s.dropWatch m o).Sound := by
  refine h.of_workAt (o := o) (s.dropWatch_tableWork m o) (s.dropWatch_work m o) (s.modObj_only o _) ?_
  rw [State.dropWatch_obj, if_pos rfl]
  exact (h.objects o).fewer (.refl _) fun none => by rw [none]; exact removeMember_zero m

theorem clearing_sound {m : Master} {s : State} (h : s.Sound) : (clearing m s).Sound :=
  h.of_work (clearing_tableWork m s) (fun o => (clearing_cleared m s h.noHolderWaits).1.objects.inv (h.objects o))
    (fun k => ((clearing_work m s).conduct k).1) fun k => ((clearing_work m s).conduct k).2.1

/-- The record of an OFFLINE object is that of a FREE one but for the state (Table 1-2). -/
theorem ObjectRec.Inv.online {r : ObjectRec} (h : r.Inv) (offline : r.state = .offline) :
    ({ r with state := .free } : ObjectRec).Inv := by
  obtain ⟨row, ⟨settles, yields, rises⟩, ordered, distinct, apart, allowance, yield, wait, due, modes⟩ := h
  have notHeld : r.isHeld = false := by simp [isHeld, offline]
  refine ⟨?_, ⟨fun owes => ?_, fun owes => ?_, fun owes => ?_⟩, ordered, distinct, apart, allowance, yield, wait, due,
    fun c => ⟨nofun, (modes c).2⟩⟩
  · unfold Row at row
    rw [offline] at row
    exact row
  · have := settles owes; rw [offline] at this; cases this
  · have := (yields owes).1; rw [notHeld] at this; cases this
  · have := rises owes; rw [notHeld] at this; cases this

theorem offline_obj (o : ObjNum) (s : State) :
    (offlineComplete o (offlineLine o (offlineHolders o s))).obj o =
      { s.obj o with
        state := .offline, holders := 0, line := [], tenure := 0, yieldPending := none, settleRemaining := none
        watchers := 0, owed := Owed.none } := by
  simp [offlineComplete, offlineLine, offlineHolders, ObjectRec.endTenure]

theorem offline_only (o : ObjNum) (s : State) :
    State.OnlyObject o s (offlineComplete o (offlineLine o (offlineHolders o s))) := fun p hp => by
  simp [offlineComplete, offlineLine, offlineHolders, State.modObj_obj_ne _ hp]

theorem offlineHolders_work (o : ObjNum) (s : State) : s.ObjectWork (offlineHolders o s) :=
  (s.modObj_work o _).trans (State.postEach_work _ _ _)

theorem offlineLine_work (o : ObjNum) (s : State) : s.ObjectWork (offlineLine o s) :=
  ((s.modObj_work o _).trans (State.returnEntries_work _ _)).trans (State.postEach_work _ _ _)

theorem offlineComplete_work (o : ObjNum) (s : State) : s.ObjectWork (offlineComplete o s) :=
  (s.modObj_work o _).trans (State.postEach_work _ _ _)

theorem offline_work (o : ObjNum) (s : State) :
    s.ObjectWork (offlineComplete o (offlineLine o (offlineHolders o s))) :=
  ((offlineHolders_work o s).trans (offlineLine_work o _)).trans (offlineComplete_work o _)

theorem offline_sound {o : ObjNum} {s : State} (h : s.Sound) :
    (offlineComplete o (offlineLine o (offlineHolders o s))).Sound := by
  refine h.of_workAt (o := o)
    (((offlineHolders_tableWork o s).trans (offlineLine_tableWork o _)).trans (offlineComplete_tableWork o _))
    (offline_work o s) (offline_only o s) ?_
  rw [offline_obj]
  exact
    { row := ⟨rfl, rfl, rfl, rfl, rfl, rfl⟩
      owed := ObjectRec.owedCounts_of_none rfl
      lineOrdered := List.Pairwise.nil
      lineDistinct := List.Pairwise.nil
      noHolderWaits := nofun
      allowance := (h.objects o).allowance
      yieldRemaining := nofun
      waitRemaining := nofun
      dueAtOne := nofun
      exclusiveOnly := fun _ => ⟨nofun, nofun⟩ }

/-- What a forced emptying makes of a record emptied by a deadline or a REVOKE (R40 to R45). -/
theorem handover_inv {o : ObjNum} {s : State} (h : (s.obj o).Emptied) : ((handover true o s).obj o).Inv := by
  obtain ⟨sound, holders, tenure, yield, settle, owed⟩ := h
  unfold handover
  split
  · rename_i settles
    rw [Bool.true_and] at settles
    rw [enterSettling, State.modObj_obj_self]
    exact ObjectRec.settling_inv sound holders (by simpa using settles)
  · have record : s.obj o =
        { s.obj o with holders := 0, tenure := 0, yieldPending := none, owed := Owed.none } := by
      conv_rhs => rw [← holders, ← tenure, ← yield, ← owed]
    obtain ⟨split, obj, -, -⟩ := handoverFromStep2_handedOver o s (s.obj o) record
    rw [obj]
    exact ObjectRec.handedOver_inv sound settle split

theorem ObjectRec.Row.settleRemaining_of_held {r : ObjectRec} (row : r.Row) (held : r.isHeld = true) :
    r.settleRemaining = none := by
  unfold Row at row
  cases state : r.state with
  | heldExclusive => rw [state] at row; exact row.2
  | heldShared => rw [state] at row; exact row.2
  | _ => simp [isHeld, state] at held

theorem revokeHolders_work (o : ObjNum) (s : State) : s.ObjectWork (revokeHolders o s) :=
  ((s.modObj_work o _).trans (State.postEach_work _ _ _)).trans (handover_work true o _)

theorem revokeHolders_only (o : ObjNum) (s : State) : State.OnlyObject o s (revokeHolders o s) :=
  ((s.modObj_only o _).trans (State.postEach_only _ o _ _)).trans (handover_only true o _)

theorem revokeHolders_sound {o : ObjNum} {s : State} (h : s.Sound) (held : (s.obj o).isHeld = true) :
    (revokeHolders o s).Sound := by
  refine h.of_workAt (o := o) (revokeHolders_tableWork o s) (revokeHolders_work o s) (revokeHolders_only o s) ?_
  refine handover_inv ?_
  rw [State.postEach_obj, State.modObj_obj_self]
  exact ⟨(h.objects o).lineSound.of_sublist (.refl _) rfl rfl, rfl, rfl, rfl,
    (h.objects o).row.settleRemaining_of_held held, rfl⟩

/-! ### The expiries -/

theorem waitExpires_sound {o : ObjNum} {m : Master} {s : State} (h : s.Sound) : (waitExpires o m s).Sound :=
  (removeWaiter_sound h).post m _

/-- Asking a yield of a held object keeps its record in its row, since its allowance is not 0 (R73). -/
theorem ObjectRec.Inv.askYield {r : ObjectRec} (h : r.Inv) (held : r.isHeld = true) (reason : YieldReason) :
    ({ r with
        yieldPending := some { remaining := r.allowance, reason := reason }
        owed := { r.owed with yield := false } } : ObjectRec).Inv := by
  obtain ⟨row, ⟨settles, yields, rises⟩, ordered, distinct, apart, allowance, yield, wait, due, modes⟩ := h
  refine ⟨?_, ⟨settles, nofun, rises⟩, ordered, distinct, apart, allowance, fun y pending => ?_, wait, due, modes⟩
  · unfold Row at row ⊢
    cases state : r.state with
    | heldExclusive => rw [state] at row; exact row
    | heldShared => rw [state] at row; exact row
    | _ => simp [isHeld, state] at held
  · cases pending; exact allowance

theorem contentionTest_inv {o : ObjNum} {s : State} (h : (s.obj o).Inv) : ((contentionTest o s).obj o).Inv := by
  rw [contentionTest_obj]
  split
  · rename_i contended
    simp only [ObjectRec.contended, Bool.and_eq_true] at contended
    obtain ⟨⟨⟨⟨held, -⟩, -⟩, -⟩, -⟩ := contended
    exact h.askYield held _
  · exact h

theorem ceilingTest_inv {o : ObjNum} {s : State} (h : (s.obj o).Inv) (held : (s.obj o).isHeld = true) :
    ((ceilingTest o s).obj o).Inv := by
  unfold ceilingTest
  split
  · rw [askYield_obj]
    exact h.askYield held _
  · exact h

/-- An object whose tenure rises is held (log 3). -/
theorem ObjectRec.Inv.held_of_tenureRisesTo {r : ObjectRec} (h : r.Inv) {mark : BitVec 16}
    (reaches : r.tenureRisesTo mark = true) : r.isHeld = true := by
  simp only [tenureRisesTo, Bool.and_eq_true] at reaches
  exact h.owed.2.2 reaches.1.1

theorem ObjectRec.Inv.held_of_reachesCeiling {r : ObjectRec} (h : r.Inv) (reaches : r.reachesCeiling = true) :
    r.isHeld = true := by
  rw [reachesCeiling, Bool.and_eq_true] at reaches
  exact h.held_of_tenureRisesTo reaches.2

theorem tenureEvent_sound {o : ObjNum} {s : State} (h : s.Sound) (noSettle : (s.obj o).settleFallsOut = false)
    (noDeadline : (s.obj o).yieldFallsOut = false) : (tenureEvent o s).Sound := by
  refine h.of_workAt (o := o) (tenureEvent_tableWork o s) (tenureEvent_work o s) (tenureEvent_only o s) ?_
  have advanced : ((s.modObj o ObjectRec.advanceOwed).obj o).Inv := by
    rw [State.modObj_obj_self]
    exact ObjectRec.advanceOwed_inv (h.objects o) noSettle noDeadline
  have ceiling : ((if (s.obj o).reachesCeiling = true then ceilingTest o (s.modObj o ObjectRec.advanceOwed)
      else s.modObj o ObjectRec.advanceOwed).obj o).Inv := by
    split
    · rename_i reaches
      refine ceilingTest_inv advanced ?_
      rw [State.modObj_obj_self]
      exact (h.objects o).held_of_reachesCeiling reaches
    · exact advanced
  unfold tenureEvent
  dsimp only
  generalize (if (s.obj o).reachesCeiling = true then ceilingTest o (s.modObj o ObjectRec.advanceOwed)
    else s.modObj o ObjectRec.advanceOwed) = u at ceiling ⊢
  split
  · exact contentionTest_inv ceiling
  · exact ceiling

/-- A settle remaining that falls is that of an object SETTLING (R83). -/
theorem ObjectRec.Inv.settling_of_fallsOut {r : ObjectRec} (h : r.Inv) (falls : r.settleFallsOut = true) :
    r.state = .settling ∧ r.holders = 0 ∧ r.tenure = 0 ∧ r.yieldPending = none := by
  rw [settleFallsOut, Bool.and_eq_true] at falls
  have state := h.owed.1 falls.1
  have row := h.row
  unfold Row at row
  rw [state] at row
  obtain ⟨holders, tenure, yield, -⟩ := row
  exact ⟨state, holders, tenure, yield⟩

/-- What a settle expiry makes of an object in its row (R41 to R46, R85). -/
theorem settleExpires_handedOver {o : ObjNum} {s : State} (holders : (s.obj o).holders = 0)
    (tenure : (s.obj o).tenure = 0) (yield : (s.obj o).yieldPending = none) :
    let r := { s.obj o with settleRemaining := none }
    BatchOf r.line (grantedEntries r.line) (remainingEntries r.line) ∧
      (settleExpires o s).obj o = r.handedOver (grantedEntries r.line) (remainingEntries r.line) ∧
      (settleExpires o s).poolFree = s.poolFree + (grantedEntries r.line).length ∧
      ∀ k, (settleExpires o s).mst k =
        (s.mst k).handedOver o r (grantedEntries r.line) (remainingEntries r.line) k := by
  refine handoverFromStep2_handedOver o
    (s.modObj o fun r => { r with settleRemaining := none, owed := Owed.none }) _ ?_
  rw [State.modObj_obj_self]
  conv_rhs => rw [← holders, ← tenure, ← yield]

theorem settleExpires_sound {o : ObjNum} {s : State} (h : s.Sound) (falls : (s.obj o).settleFallsOut = true) :
    (settleExpires o s).Sound := by
  refine h.of_workAt (o := o) (settleExpires_tableWork o s) (settleExpires_work o s) (settleExpires_only o s) ?_
  obtain ⟨-, holders, tenure, yield⟩ := (h.objects o).settling_of_fallsOut falls
  obtain ⟨split, obj, -, -⟩ := settleExpires_handedOver holders tenure yield
  rw [obj]
  exact ObjectRec.handedOver_inv ((h.objects o).lineSound.of_sublist (.refl _) rfl rfl) rfl split

/-! ### The deadline -/

/-- The part between the stages of a deadline at `o`: the object is emptied, and the cascades of the masters in `l` are
still to come. -/
structure State.AtDeadline (o : ObjNum) (l : List Master) (s : State) : Prop where
  objects : ∀ p, p ≠ o → (s.obj p).Inv
  emptied : (s.obj o).Emptied
  standing : s.StandingFromScore
  barred : ∀ k, k ∉ l → (s.mst k).standing = .barred → s.HoldsNothing k

theorem State.AtDeadline.noHolderWaits {o : ObjNum} {l : List Master} {s : State} (h : s.AtDeadline o l) :
    s.NoHolderWaits := fun p e he => by
  by_cases own : p = o
  · subst own; rw [h.emptied.holders]; exact isMember_zero _
  · exact (h.objects p own).noHolderWaits e he

/-- One cascade of a deadline (R79). -/
theorem State.AtDeadline.cascade {o : ObjNum} {n : Master} {l : List Master} {s : State}
    (h : s.AtDeadline o (n :: l)) : (Machine.cascade n s).AtDeadline o l := by
  have cut := (cascade_cutOff n s h.noHolderWaits).objects
  have conduct := (cascade_work n s).conduct
  refine ⟨fun p ne => cut.inv (h.objects p ne), cut.emptied h.emptied, fun k => ?_, fun k fresh barred => ?_⟩
  · rw [(conduct k).1, (conduct k).2.1]; exact h.standing k
  · by_cases e : k = n
    · subst e; exact cut.holdsNothing h.noHolderWaits
    · rw [(conduct k).2.1] at barred
      exact (cascade_tableWork n s).holdsNothing (h.barred k (by simp [e, fresh]) barred)

theorem State.AtDeadline.cascades {o : ObjNum} {l : List Master} {s : State} (h : s.AtDeadline o l) :
    (l.foldl (fun s h => Machine.cascade h s) s).AtDeadline o [] := by
  induction l generalizing s with
  | nil => exact h
  | cons n l ih =>
    have rest := h.cascade
    rw [List.foldl_cons]
    generalize Machine.cascade n s = u at rest ⊢
    exact ih rest

theorem ObjectRec.Inv.held_of_yieldFallsOut {r : ObjectRec} (h : r.Inv) (falls : r.yieldFallsOut = true) :
    r.isHeld = true := by
  rw [yieldFallsOut, Bool.and_eq_true] at falls
  exact (h.owed.2.1 falls.1).1

/-- The first stage of a deadline leaves the masters it made BARRED to their cascades (R78, R79). -/
theorem deadlineFirstStage_atDeadline {o : ObjNum} {s : State} (h : s.Sound) (falls : (s.obj o).yieldFallsOut = true) :
    (deadlineFirstStage o s).AtDeadline o
      (barredBetween s (deadlineFirstStage o s) (members (s.obj o).holders)) := by
  obtain ⟨obj, only, -, mst⟩ := deadlineFirstStage_spec o s
  have settle := (h.objects o).row.settleRemaining_of_held ((h.objects o).held_of_yieldFallsOut falls)
  have conduct (k : Master) := (s.mst k).deadlineRecords_conduct (members_nodup (s.obj o).holders) o k
  refine ⟨fun p ne => by rw [only p ne]; exact h.objects p, ?_, fun k => ?_, fun k fresh barred => ?_⟩
  · rw [obj]
    exact ⟨(h.objects o).lineSound.of_sublist (.refl _) rfl rfl, rfl, rfl, rfl, settle, rfl⟩
  · obtain ⟨score, standing, -⟩ := conduct k
    rw [mst, score, standing]
    split
    · refine recomputeStanding_eq fun barred => standingOf_raiseScore_of_barred ?_ _
      rw [← h.standing k]
      exact barred
    · exact h.standing k
  · have before : (s.mst k).standing = .barred := by
      by_contra notBarred
      refine fresh (List.mem_filter.mpr ⟨?_, by simp [notBarred, barred]⟩)
      by_contra notHolder
      rw [mst, (conduct k).2.1, if_neg notHolder] at barred
      exact notBarred barred
    exact (deadlineFirstStage_tableWork o s).holdsNothing (h.barred k before)

theorem deadline_sound {o : ObjNum} {s : State} (h : s.Sound) (falls : (s.obj o).yieldFallsOut = true) :
    (deadline o s).Sound := by
  have ready := (deadlineFirstStage_atDeadline h falls).cascades
  unfold deadline
  dsimp only
  generalize List.foldl (fun s h => cascade h s) (deadlineFirstStage o s)
    (barredBetween s (deadlineFirstStage o s) (members (s.obj o).holders)) = u at ready ⊢
  have conduct := (handover_work true o u).conduct
  refine ⟨fun p => ?_, fun k => ?_, fun k barred => ?_⟩
  · by_cases e : p = o
    · subst e; exact handover_inv ready.emptied
    · rw [handover_only true o u p e]; exact ready.objects p e
  · rw [(conduct k).1, (conduct k).2.1]; exact ready.standing k
  · rw [(conduct k).2.1] at barred
    exact (handover_tableWork true o u).holdsNothing (ready.barred k (by simp) barred)

/-! ### Expiries outstanding, and the end of a TU -/

theorem objectEvent_sound {o : ObjNum} {s : State} (h : s.Sound) : (objectEvent o s).Sound := by
  unfold objectEvent
  split
  · rename_i falls
    exact settleExpires_sound h falls
  · rename_i noSettle
    split
    · rename_i falls
      exact deadline_sound h falls
    · rename_i noDeadline
      exact tenureEvent_sound h (by simpa using noSettle) (by simpa using noDeadline)

theorem takeExpiry_sound {e : Expiry} {s : State} (h : s.Sound) : (takeExpiry e s).Sound := by
  cases e with
  | object o => exact objectEvent_sound h
  | entry o m => exact waitExpires_sound h

theorem takeOutstanding_sound {s : State} (h : s.Sound) : (takeOutstanding s).Sound :=
  takeOutstandingUpTo_induction (P := fun s t => s.Sound → t.Sound) (fun _ => id)
    (fun _ _ _ _ h => takeExpiry_sound (h.of_objects rfl (fun _ => rfl) fun _ => rfl)) (fun f g => g ∘ f) _ s h

theorem endTimeUnit_sound {s : State} (h : s.Sound) : (endTimeUnit s).Sound := by
  refine ⟨fun o => ?_, h.standing, fun m barred => (State.holdsNothing_iff _ _).mpr fun o => ?_⟩
  · rw [endTimeUnit_obj]
    exact ObjectRec.lineTimeUnitEnds_inv (ObjectRec.timeUnitEnds_inv (h.objects o))
  · obtain ⟨holds, waits, watches⟩ := h.stranger barred o
    rw [endTimeUnit_obj]
    have same : (s.obj o).timeUnitEnds.holders = (s.obj o).holders ∧
        (s.obj o).timeUnitEnds.watchers = (s.obj o).watchers := by
      unfold ObjectRec.timeUnitEnds; split <;> exact ⟨rfl, rfl⟩
    refine ⟨by rw [ObjectRec.lineTimeUnitEnds, same.1]; exact holds, fun e he => ?_,
      by rw [ObjectRec.lineTimeUnitEnds, same.2]; exact watches⟩
    rw [ObjectRec.lineTimeUnitEnds, ObjectRec.timeUnitEnds_line] at he
    obtain ⟨x, hx, rfl⟩ := List.mem_map.mp he
    rw [Entry.timeUnitEnds_master]
    exact waits x hx

end Sys2Proof.Machine
end

section
/-! PROOFS. The invariant of the part is kept by every step: the port writes that put something new into a record, the
observations and the events, and with them every row. -/

namespace Sys2Proof.Machine

/-! ### Expiries outstanding -/

/-- No expiry is outstanding just when no object owes and no entry is due. -/
theorem State.outstanding_eq_nil_iff (s : State) :
    s.outstanding = [] ↔ ∀ o, (s.obj o).owed.any = false ∧ ∀ e ∈ (s.obj o).line, e.due = false := by
  simp only [outstanding, List.append_eq_nil_iff, List.map_eq_nil_iff, List.filter_eq_nil_iff, List.flatMap_eq_nil_iff,
    mem_allObjects, forall_const, Bool.not_eq_true]
  exact forall_and.symm

/-- A change of one record that owes nothing more adds no expiry. -/
theorem State.modObj_outstanding {s : State} {o : ObjNum} {f : ObjectRec → ObjectRec}
    (owed : (s.obj o).owed.any = false → (f (s.obj o)).owed.any = false)
    (due : (∀ e ∈ (s.obj o).line, e.due = false) → ∀ e ∈ (f (s.obj o)).line, e.due = false)
    (h : s.outstanding = []) : (s.modObj o f).outstanding = [] := by
  rw [outstanding_eq_nil_iff] at h ⊢
  intro p
  rw [State.modObj_obj]; split
  · exact ⟨owed (h o).1, due (h o).2⟩
  · exact h p

theorem State.TableWork.outstanding_eq_nil {s t : State} (w : s.TableWork t) (h : s.outstanding = []) :
    t.outstanding = [] := List.sublist_nil.mp (h ▸ w.outstanding_sublist)

/-- Two states with the same object records have the same expiries outstanding. -/
theorem State.outstanding_congr {s t : State} (h : t.objects = s.objects) : t.outstanding = s.outstanding := by
  unfold outstanding State.obj; rw [h]

/-! ### Waits held -/

/-- A change of one record that keeps its line keeps the waits held. -/
theorem State.modObj_waitsHeld_of_line {s : State} {o : ObjNum} {f : ObjectRec → ObjectRec}
    (h : (f (s.obj o)).line = (s.obj o).line) (m : Master) : (s.modObj o f).waitsHeld m = s.waitsHeld m := by
  have := s.modObj_waitsHeld o f m
  rw [h] at this
  exact Nat.add_right_cancel this

/-- The contention test keeps every line. -/
theorem contentionTest_line (o : ObjNum) (s : State) (p : ObjNum) :
    ((contentionTest o s).obj p).line = (s.obj p).line := by
  by_cases own : p = o
  · subst own; rw [contentionTest_obj]; split <;> rfl
  · rw [contentionTest_only o s p own]

/-- The waits held are read from the lines alone. -/
theorem State.waitsHeld_of_lines {s t : State} (h : ∀ o, (t.obj o).line = (s.obj o).line) (m : Master) :
    t.waitsHeld m = s.waitsHeld m := by
  simp only [waitsHeld, h]

theorem insertEntry_perm (e : Entry) (line : List Entry) : (insertEntry e line).Perm (e :: line) := by
  rw [insertEntry_eq]
  refine List.perm_middle.trans ?_
  rw [List.takeWhile_append_dropWhile]

/-- A queued claim is one more wait of its writer, and no one else's (R33). -/
theorem queueClaim_waitsHeld (m : Master) (w : Word) (s : State) (k : Master) :
    (queueClaim m w s).waitsHeld k = s.waitsHeld k + if k = m then 1 else 0 := by
  have total := s.takeEntry.modObj_waitsHeld (objectField w)
    (fun r => { r with line := insertEntry (claimEntry m w s) r.line }) k
  simp only [State.takeEntry_obj, (insertEntry_perm _ _).countP_eq, List.countP_cons] at total
  have same : s.takeEntry.waitsHeld k = s.waitsHeld k := State.waitsHeld_congr rfl k
  have tested : (queueClaim m w s).waitsHeld k = _ := State.waitsHeld_of_lines (contentionTest_line _ _) k
  have own : ((claimEntry m w s).master == k) = decide (k = m) := by
    by_cases e : k = m
    · subst e; simp [claimEntry]
    · simp [e, claimEntry, Ne.symm e]
  rw [tested]
  rw [own, same] at total
  simp only [decide_eq_true_eq] at total
  omega

/-! ### CLAIM and WATCH keep the part sound -/

/-- What a grant at once makes of a FREE record (R29). -/
theorem grantAtOnce_sound {m : Master} {mode : Mode} {o : ObjNum} {s : State} (h : s.Sound)
    (free : (s.obj o).state = .free) (notBarred : (s.mst m).standing ≠ .barred)
    (allowed : mode = .shared → (s.obj o).objClass ≠ .exclusiveOnly) : (grantAtOnce m mode o s).Sound := by
  obtain ⟨row, -, ordered, distinct, -, allowance, -, wait, due, modes⟩ := h.objects o
  unfold ObjectRec.Row at row
  rw [free] at row
  obtain ⟨-, line, -, yield, settle, -⟩ := row
  refine h.modObj ⟨?_, ObjectRec.owedCounts_of_none rfl, ordered, distinct, ?_, allowance, ?_, wait, due, ?_⟩
    fun k barred => ⟨?_, (h.stranger barred o).waits, (h.stranger barred o).watches⟩
  · cases mode with
    | exclusive => exact ⟨⟨m, rfl⟩, settle⟩
    | shared => exact ⟨single_ne_zero m, settle⟩
  · show ∀ e ∈ (s.obj o).line, _
    rw [line]
    nofun
  · show ∀ y, (s.obj o).yieldPending = some y → _
    rw [yield]
    nofun
  · refine fun c => ⟨?_, (modes c).2⟩
    cases mode with
    | exclusive => nofun
    | shared => exact absurd c (allowed rfl)
  · show isMember (single m) k = false
    rw [isMember_single, decide_eq_false_iff_not]
    rintro rfl
    exact notBarred barred

/-- What a shared join makes of a HELD-SHARED record with an empty line (R30). -/
theorem sharedJoin_sound {m : Master} {mode : Mode} {o : ObjNum} {s : State} (h : s.Sound)
    (joins : (s.obj o).joinable mode = true) (notBarred : (s.mst m).standing ≠ .barred) :
    (sharedJoin m o s).Sound := by
  simp only [ObjectRec.joinable, Bool.and_eq_true, beq_iff_eq, List.isEmpty_iff] at joins
  obtain ⟨⟨⟨state, -⟩, line⟩, -⟩ := joins
  obtain ⟨row, owed, ordered, distinct, -, allowance, yield, wait, due, modes⟩ := h.objects o
  unfold ObjectRec.Row at row
  rw [state] at row
  refine h.modObj ⟨?_, owed, ordered, distinct, ?_, allowance, yield, wait, due, modes⟩
    fun k barred => ⟨?_, (h.stranger barred o).waits, (h.stranger barred o).watches⟩
  · show ObjectRec.Row { s.obj o with holders := addMember (s.obj o).holders m, grantCount := _ }
    simp only [ObjectRec.Row, state]
    refine ⟨fun none => ?_, row.2⟩
    have := (eq_zero_iff_no_member _).mp none m
    simp [isMember_addMember] at this
  · show ∀ e ∈ (s.obj o).line, _
    rw [line]
    nofun
  · show isMember (addMember (s.obj o).holders m) k = false
    rw [isMember_addMember, (h.stranger barred o).holds, Bool.false_or, decide_eq_false_iff_not]
    rintro rfl
    exact notBarred barred

/-- What a new entry makes of a record that is neither OFFLINE nor FREE (R33, R50). -/
theorem ObjectRec.Inv.insertEntry {r : ObjectRec} (h : r.Inv) {e : Entry} (notOffline : r.state ≠ .offline)
    (notFree : r.state ≠ .free) (notHolder : isMember r.holders e.master = false)
    (notWaiting : ∀ x ∈ r.line, x.master ≠ e.master) (wait : e.waitRemaining ≠ some 0) (due : e.due = false)
    (mode : r.objClass = .exclusiveOnly → e.mode = .exclusive) :
    ({ r with line := Machine.insertEntry e r.line } : ObjectRec).Inv := by
  obtain ⟨row, owed, ordered, distinct, apart, allowance, yield, waits, dues, modes⟩ := h
  have each {P : Entry → Prop} (new : P e) (old : ∀ x ∈ r.line, P x) : ∀ x ∈ Machine.insertEntry e r.line, P x := by
    intro x hx
    obtain rfl | hx := (mem_insertEntry e x r.line).mp hx
    · exact new
    · exact old x hx
  refine ⟨?_, owed, insertEntry_ordered ordered, ?_, each notHolder apart, allowance, yield, each wait waits,
    each (fun owes => by rw [due] at owes; cases owes) dues,
    fun c => ⟨(modes c).1, each (mode c) (modes c).2⟩⟩
  · unfold Row at row ⊢
    cases state : r.state with
    | offline => exact absurd state notOffline
    | free => exact absurd state notFree
    | _ => rw [state] at row; exact row
  · rw [lineDistinct_iff_nodup, ((insertEntry_perm e r.line).map _).nodup_iff, List.map_cons, List.nodup_cons]
    refine ⟨?_, (lineDistinct_iff_nodup _).mp distinct⟩
    simp only [List.mem_map, not_exists, not_and]
    exact notWaiting

theorem initialWait_ne_zero (limit : BitVec 16) : initialWait limit ≠ some 0 := by
  unfold initialWait
  split
  · nofun
  · rename_i nonzero
    simpa using nonzero

theorem queueClaim_sound {m : Master} {w : Word} {s : State} (h : s.Sound)
    (passes : firstFailing (claimChecks m w s) = none)
    (notGrantable : ¬ (s.obj (objectField w)).Grantable (claimMode w)) : (queueClaim m w s).Sound := by
  obtain ⟨-, notBarred, notOffline, notHolder, notWaiting, allowed⟩ := firstFailing_claimChecks_eq_none_iff.mp passes
  have strange : ∀ x ∈ (s.obj (objectField w)).line, x.master ≠ m := fun x hx => by
    simpa using List.any_eq_false.mp notWaiting x hx
  have inserted : (s.takeEntry.modObj (objectField w) fun r =>
      { r with line := insertEntry (claimEntry m w s) r.line }).Sound := by
    have taken : s.takeEntry.Sound := h.of_objects rfl (fun _ => rfl) fun _ => rfl
    refine taken.modObj ((h.objects _).insertEntry notOffline (fun free => notGrantable (.inl free)) notHolder strange
      (initialWait_ne_zero _) rfl fun c => ?_) fun k barred => ?_
    · cases mode : claimMode w with
      | exclusive => exact mode
      | shared => exact absurd c (allowed mode)
    · obtain ⟨holds, waits, watches⟩ := h.stranger (m := k) barred (objectField w)
      refine ⟨holds, fun x hx => ?_, watches⟩
      obtain rfl | hx := (mem_insertEntry _ x _).mp hx
      · rintro rfl
        exact notBarred barred
      · exact waits x hx
  exact inserted.of_workAt (o := objectField w) (contentionTest_tableWork _ _) (contentionTest_work _ _)
    (contentionTest_only _ _) (contentionTest_inv (inserted.objects _))

theorem watchAdmitted_sound {m : Master} {o : ObjNum} {s : State} (h : s.Sound)
    (notBarred : (s.mst m).standing ≠ .barred) (notOffline : (s.obj o).state ≠ .offline) :
    (watchAdmitted m o s).Sound := by
  unfold watchAdmitted
  split
  · exact h.post m _
  · rename_i notFree
    obtain ⟨row, owed, ordered, distinct, apart, allowance, yield, wait, due, modes⟩ := h.objects o
    refine h.modObj ⟨?_, owed, ordered, distinct, apart, allowance, yield, wait, due, modes⟩
      fun k barred => ⟨(h.stranger barred o).holds, (h.stranger barred o).waits, ?_⟩
    · unfold ObjectRec.Row at row ⊢
      cases state : (s.obj o).state with
      | offline => exact absurd state notOffline
      | free => simp [state] at notFree
      | _ => rw [state] at row; exact row
    · show isMember (addMember (s.obj o).watchers m) k = false
      rw [isMember_addMember, (h.stranger barred o).watches, Bool.false_or, decide_eq_false_iff_not]
      rintro rfl
      exact notBarred barred

/-! ### Settings keep the part sound -/

/-- A record that is OFFLINE is in its row under every configuration with an allowance (R10, R11). -/
theorem ObjectRec.Inv.configure {r : ObjectRec} (h : r.Inv) (offline : r.state = .offline) {w a : Word}
    (allowance : configAllowance a ≠ 0) : (r.configure w a).Inv := by
  obtain ⟨row, owed, ordered, distinct, apart, -, yield, wait, due, -⟩ := h
  have row' := row
  unfold Row at row'
  rw [offline] at row'
  obtain ⟨-, line, -⟩ := row'
  refine ⟨row, owed, ordered, distinct, apart, allowance, yield, wait, due, fun _ => ⟨?_, ?_⟩⟩
  · show r.state ≠ .heldShared
    rw [offline]
    nofun
  · show ∀ e ∈ r.line, _
    rw [line]
    nofun

theorem State.Sound.modMst {s : State} (h : s.Sound) {m : Master} {f : MasterRec → MasterRec}
    (score : (f (s.mst m)).score = (s.mst m).score) (standing : (f (s.mst m)).standing = (s.mst m).standing) :
    (s.modMst m f).Sound :=
  h.of_objects rfl (State.modMst_field MasterRec.score score) (State.modMst_field MasterRec.standing standing)

theorem Sets.sound {i : Instr} {s u : State} (h : Sets i s u) (sound : s.Sound) : u.Sound := by
  cases h with
  | claimGrant passes free =>
    obtain ⟨-, notBarred, -, -, -, allowed⟩ := firstFailing_claimChecks_eq_none_iff.mp passes
    exact grantAtOnce_sound sound free notBarred allowed
  | claimJoin passes joins =>
    obtain ⟨-, notBarred, -⟩ := firstFailing_claimChecks_eq_none_iff.mp passes
    exact sharedJoin_sound sound joins notBarred
  | claimQueue passes notGrantable _ => exact queueClaim_sound sound passes notGrantable
  | watch passes =>
    obtain ⟨-, notBarred, notOffline⟩ := firstFailing_watchChecks_eq_none_iff.mp passes
    exact watchAdmitted_sound sound notBarred notOffline
  | setAttention => exact sound.modMst rfl rfl
  | configObject passes =>
    obtain ⟨-, wellFormed, offline⟩ := firstFailing_configChecks_eq_none_iff.mp passes
    simp only [configMalformed, Bool.or_eq_false_iff, beq_eq_false_iff_ne] at wellFormed
    exact sound.modObj ((sound.objects _).configure offline wellFormed.2) fun k barred =>
      ⟨(sound.stranger barred _).holds, (sound.stranger barred _).waits, (sound.stranger barred _).watches⟩
  | setQuota => exact sound.modMst rfl rfl
  | setSupervisor => exact sound.modMst rfl rfl
  | configGuard => exact sound.of_objects rfl (fun _ => rfl) fun _ => rfl
  | ackLog => exact sound.of_objects rfl (fun _ => rfl) fun _ => rfl
  | setTimeBase => exact (takeOutstanding_sound sound).of_objects rfl (fun _ => rfl) fun _ => rfl

theorem Works.sound {i : Instr} {s u : State} (h : Works i s u) (sound : s.Sound) : u.Sound := by
  cases h with
  | @release m w _ passes =>
    obtain ⟨-, member⟩ := firstFailing_releaseChecks_eq_none_iff.mp passes
    refine credit_sound (releaseHold_sound sound member) ?_
    rw [((releaseHold_work m (objectField w) s).conduct m).2.1]
    exact sound.not_barred_of_member member
  | withdraw => exact removeWaiter_sound sound
  | unwatch => exact dropWatch_sound sound
  | ackEvent => exact sound.modMst rfl rfl
  | clearOverflow => exact sound.modMst rfl rfl
  | resetSelf => exact clearing_sound sound
  | online passes =>
    obtain ⟨-, -, offline⟩ := firstFailing_onlineChecks_eq_none_iff.mp passes
    exact sound.modObj ((sound.objects _).online offline) fun k barred =>
      ⟨(sound.stranger barred _).holds, (sound.stranger barred _).waits, (sound.stranger barred _).watches⟩
  | offline => exact offline_sound sound
  | revoke passes =>
    obtain ⟨-, -, held⟩ := firstFailing_revokeChecks_eq_none_iff.mp passes
    exact revokeHolders_sound sound held
  | readmit => exact standingAdmitted_sound sound
  | bar => exact standingAdmitted_sound sound
  | clearMaster => exact (clearing_sound sound).post _ _

end Sys2Proof.Machine
end

section
/-! PROOFS. The reset state has the invariant of the part, and every step keeps it. -/

namespace Sys2Proof.Machine

/-! ### Work of the tables -/

/-- Work of the tables that keeps the account of the pool and leaves the part sound keeps the invariant. -/
theorem State.Inv.sound {s : State} (h : s.Inv) : s.Sound := ⟨h.objects, h.standing, h.barred⟩

theorem State.TableWork.inv {s t : State} (w : s.TableWork t) (pool : t.poolSum = s.poolSum) (sound : t.Sound)
    (h : s.Inv) : t.Inv where
  objects := sound.objects
  pool := pool.trans h.pool
  queues := w.queuesBounded h.queues
  supervisor := w.hasSupervisor h.supervisor
  standing := sound.standing
  quotas m := by rw [(w.masters m).quota]; exact h.quotas m
  waits m := (w.waitsHeld_le m).trans (h.waits m)
  barred := sound.barred
  log := by unfold State.LogBounded; rw [w.log]; exact h.log
  period := by unfold State.PeriodBounded; rw [w.timeBase]; exact h.period
  stopped stopped := w.outstanding_eq_nil (h.stopped (by rw [← w.timeBase]; exact stopped))

/-- Two states that agree in their records have the invariant together. -/
theorem State.SameRecords.inv {s t : State} (same : s.SameRecords t) (h : s.Inv) : t.Inv := by
  obtain ⟨objects, masters, poolFree, log, timeBase⟩ := same
  have mst (m : Master) : t.mst m = s.mst m := by unfold State.mst; rw [masters]
  have sound := h.sound.of_objects objects (fun m => by rw [mst]) fun m => by rw [mst]
  refine ⟨sound.objects, (State.poolSum_congr objects poolFree).trans h.pool, fun m => ?_, ?_, sound.standing,
    fun m => ?_, fun m => ?_, sound.barred, ?_, ?_, fun stopped => ?_⟩
  · rw [mst]; exact h.queues m
  · exact State.hasSupervisor_of_masters s t masters h.supervisor
  · rw [mst]; exact h.quotas m
  · rw [State.waitsHeld_congr objects]; exact h.waits m
  · unfold State.LogBounded; rw [log]; exact h.log
  · unfold State.PeriodBounded; rw [timeBase]; exact h.period
  · rw [State.outstanding_congr objects]
    exact h.stopped (by rw [← timeBase]; exact stopped)

/-! ### The port writes that put something new into a record -/

theorem Sets.quotasBounded {i : Instr} {s u : State} (h : Sets i s u) (quotas : s.QuotasBounded) :
    u.QuotasBounded := by
  have kept (other : ∀ m w, i ≠ .setQuota m w) : u.QuotasBounded := fun k => by
    rw [h.settingsBy.quota other k]; exact quotas k
  cases h with
  | setQuota wellFormed =>
    intro k
    rw [State.modMst_mst]
    split
    · simp only [quotaMalformed, Bool.or_eq_false_iff, decide_eq_false_iff_not] at wellFormed
      exact BitVec.not_lt.mp wellFormed.2
    · exact quotas k
  | _ => exact kept nofun

theorem Sets.waitsBounded {i : Instr} {s u : State} (h : Sets i s u) (waits : s.WaitsBounded)
    (quotas : s.QuotasBounded) : u.WaitsBounded := by
  intro k
  cases h with
  | claimGrant => rw [grantAtOnce, State.modObj_waitsHeld_of_line rfl]; exact waits k
  | claimJoin => rw [sharedJoin, State.modObj_waitsHeld_of_line rfl]; exact waits k
  | @claimQueue m w _ _ _ passes =>
    obtain ⟨-, -, below, -⟩ := firstFailing_waitChecks_eq_none_iff.mp passes
    rw [queueClaim_waitsHeld]
    by_cases own : k = m
    · rw [if_pos own, own]; exact Nat.lt_of_lt_of_le below (quotas m)
    · rw [if_neg own, Nat.add_zero]; exact waits k
  | watch =>
    unfold watchAdmitted
    split
    · exact waits k
    · rw [State.modObj_waitsHeld_of_line rfl]; exact waits k
  | configObject => rw [State.modObj_waitsHeld_of_line rfl]; exact waits k
  | setTimeBase => exact ((takeOutstanding_tableWork s).waitsHeld_le k).trans (waits k)
  | _ => exact waits k

theorem Sets.logBounded {i : Instr} {s u : State} (h : Sets i s u) (log : s.LogBounded) : u.LogBounded := by
  have kept (other : ∀ m w, i ≠ .ackLog m w) (other' : ∀ m addr dir, i ≠ .observation m addr dir) :
      u.LogBounded := by
    unfold State.LogBounded; rw [h.settingsBy.log other other']; exact log
  cases h with
  | ackLog =>
    refine ⟨?_, fun l hl => log.2 l (List.mem_of_mem_tail hl)⟩
    show s.log.tail.length ≤ _
    rw [List.length_tail]
    exact (Nat.sub_le _ 1).trans log.1
  | _ => exact kept nofun nofun

/-- Only SET_TIME_BASE among them writes the time base, and of it the divider and the run state (R152). -/
theorem Sets.timeBase {i : Instr} {s u : State} (h : Sets i s u) :
    u.timeBase = s.timeBase ∨ ∃ m w, i = .setTimeBase m w ∧ u.timeBase = s.timeBase.configure w := by
  cases h with
  | claimQueue => exact .inl (queueClaim_work _ _ s).timeBase
  | watch => exact .inl (watchAdmitted_work _ _ s).timeBase
  | setTimeBase => exact .inr ⟨_, _, rfl, by rw [(takeOutstanding_tableWork s).timeBase]⟩
  | _ => exact .inl rfl

theorem Sets.periodBounded {i : Instr} {s u : State} (h : Sets i s u) (period : s.PeriodBounded) :
    u.PeriodBounded := by
  unfold State.PeriodBounded
  obtain same | ⟨m, w, -, configured⟩ := h.timeBase
  · rw [same]; exact period
  · rw [configured]; exact period

/-! ### Taking the outstanding expiries -/

/-- An object that has had its event owes nothing. -/
theorem objectEvent_owes_nothing (o : ObjNum) (s : State) : ((objectEvent o s).obj o).owed.any = false := by
  unfold objectEvent
  split
  · refine ((handoverFromStep2_tableWork o _).objects o).owed ?_
    rw [State.modObj_obj_self]
    rfl
  · split
    · have first : ((deadlineFirstStage o s).obj o).owed.any = false := by
        rw [(deadlineFirstStage_spec o s).1]; rfl
      exact (((State.TableWork.foldl (fun s h => cascade_tableWork h s) _ _).trans
        (handover_tableWork true o _)).objects o).owed first
    · have advanced : ((s.modObj o ObjectRec.advanceOwed).obj o).owed.any = false := by
        rw [State.modObj_obj_self]; rfl
      have ceiling (reached : Bool) (u : State) : u.TableWork (if reached then ceilingTest o u else u) := by
        split
        · exact ceilingTest_tableWork o u
        · exact .refl u
      have floor (reached : Bool) (u : State) : u.TableWork (if reached then contentionTest o u else u) := by
        split
        · exact contentionTest_tableWork o u
        · exact .refl u
      exact (((ceiling _ _).trans (floor _ _)).objects o).owed advanced

/-- An expiry taken is outstanding no more. -/
theorem takeExpiry_not_outstanding (e : Expiry) (s : State) : e ∉ (takeExpiry e s).outstanding := by
  cases e with
  | object o =>
    have none := objectEvent_owes_nothing o s
    simp only [takeExpiry, State.outstanding, List.mem_append, List.mem_map, List.mem_filter, List.mem_flatMap,
      Expiry.object.injEq, reduceCtorEq, and_false, exists_false, or_false]
    rintro ⟨p, ⟨-, owes⟩, rfl⟩
    rw [none] at owes
    cases owes
  | entry o m =>
    simp only [takeExpiry, State.outstanding, List.mem_append, List.mem_map, List.mem_filter, List.mem_flatMap,
      Expiry.entry.injEq, reduceCtorEq, and_false, exists_false, false_or]
    rintro ⟨p, -, x, ⟨mem, -⟩, rfl, rfl⟩
    rw [waitExpires, State.post_obj, State.removeWaiter_obj, if_pos rfl] at mem
    simp at mem

/-- Each expiry taken is one fewer, at least, and none is added (R115, R151). -/
theorem takeExpiry_outstanding_lt {e : Expiry} {s : State} (h : e ∈ s.outstanding) :
    (takeExpiry e s).outstanding.length < s.outstanding.length := by
  have fewer := (takeExpiry_tableWork e s).outstanding_sublist
  refine Nat.lt_of_le_of_ne fewer.length_le fun same => ?_
  have := fewer.eq_of_length same
  exact takeExpiry_not_outstanding e s (this ▸ h)

/-- With enough turns every outstanding expiry is taken. -/
theorem takeOutstandingUpTo_outstanding {n : Nat} {s : State} (enough : s.outstanding.length ≤ n) :
    (takeOutstandingUpTo n s).outstanding = [] := by
  induction n generalizing s with
  | zero => exact List.length_eq_zero_iff.mp (Nat.le_zero.mp enough)
  | succ n ih =>
    unfold takeOutstandingUpTo
    split
    · assumption
    · rename_i e one
      have := takeExpiry_outstanding_lt (e := e) (s := s) (by simp [one])
      rw [one] at this
      exact List.length_eq_zero_iff.mp (Nat.lt_one_iff.mp this)
    · rename_i e es _ more
      refine ih (Nat.le_of_lt_succ (Nat.lt_of_lt_of_le ?_ enough))
      refine takeExpiry_outstanding_lt (s := { s with choices := s.choices + 1 }) ?_
      show _ ∈ s.outstanding
      rw [more, List.getD_eq_getElem _ _ (Nat.mod_lt _ (by simp))]
      exact List.getElem_mem _

theorem takeOutstanding_outstanding (s : State) : (takeOutstanding s).outstanding = [] :=
  takeOutstandingUpTo_outstanding (Nat.le_refl _)

/-- With none outstanding there is nothing to take. -/
theorem takeOutstanding_of_none {s : State} (h : s.outstanding = []) : takeOutstanding s = s := by
  unfold takeOutstanding
  rw [h]
  rfl

/-! ### Every kind of step -/

theorem Sets.stoppedOwesNothing {i : Instr} {s u : State} (h : Sets i s u) (stopped : s.StoppedOwesNothing) :
    u.StoppedOwesNothing := by
  have kept (same : u.timeBase = s.timeBase) (owes : s.outstanding = [] → u.outstanding = []) :
      u.StoppedOwesNothing := fun halted => owes (stopped (by rw [← same]; exact halted))
  cases h with
  | claimGrant => exact kept rfl (State.modObj_outstanding (fun _ => rfl) id)
  | claimJoin => exact kept rfl (State.modObj_outstanding id id)
  | claimQueue =>
    refine kept (queueClaim_work _ _ s).timeBase fun none => ?_
    refine (contentionTest_tableWork _ _).outstanding_eq_nil ?_
    refine State.modObj_outstanding (s := s.takeEntry) id (fun due e he => ?_) none
    obtain rfl | he := (mem_insertEntry _ e _).mp he
    · rfl
    · exact due e he
  | watch =>
    refine kept (watchAdmitted_work _ _ s).timeBase ?_
    unfold watchAdmitted
    split
    · exact id
    · exact State.modObj_outstanding id id
  | configObject => exact kept rfl (State.modObj_outstanding id id)
  | setTimeBase => exact fun _ => takeOutstanding_outstanding s
  | _ => exact kept rfl id

theorem Sets.inv {i : Instr} {s u : State} (h : Sets i s u) (inv : s.Inv) : u.Inv where
  objects := (h.sound inv.sound).objects
  pool := h.poolSum.trans inv.pool
  queues := h.queuesBounded inv.queues
  supervisor := h.hasSupervisor inv.supervisor
  standing := (h.sound inv.sound).standing
  quotas := h.quotasBounded inv.quotas
  waits := h.waitsBounded inv.waits inv.quotas
  barred := (h.sound inv.sound).barred
  log := h.logBounded inv.log
  period := h.periodBounded inv.period
  stopped := h.stoppedOwesNothing inv.stopped

theorem Carried.inv {i : Instr} {s u : State} (h : Carried i s u) (inv : s.Inv) : u.Inv := by
  obtain works | sets := h
  · exact works.tableWork.inv works.poolSum (works.sound inv.sound) inv
  · exact sets.inv inv

/-- Suppression keeps the length of the log and the objects' states in it (R145). -/
theorem suppressNewest_logBounded {log : List LogRecord} :
    (suppressNewest log).length = log.length ∧
      ∀ l ∈ suppressNewest log, ∃ k ∈ log, l.objState = k.objState := by
  induction log with
  | nil => exact ⟨rfl, nofun⟩
  | cons l rest ih =>
    cases rest with
    | nil => exact ⟨rfl, fun k hk => ⟨l, by simp, by obtain rfl : k = _ := by simpa [suppressNewest] using hk
                                                     rfl⟩⟩
    | cons l' rest =>
      refine ⟨congrArg (· + 1) ih.1, fun k hk => ?_⟩
      obtain rfl | hk := List.mem_cons.mp hk
      · exact ⟨k, by simp, rfl⟩
      · obtain ⟨x, hx, same⟩ := ih.2 k hk
        exact ⟨x, List.mem_cons_of_mem _ hx, same⟩

/-- A record of an object in service, offered to the log, keeps it within its bounds (R140, R141). -/
theorem logWith_bounded {l : LogRecord} {s : State} (h : s.LogBounded) (inService : l.objState ≠ .offline) :
    (logWith l s.log).length ≤ logCapacity ∧ ∀ k ∈ logWith l s.log, k.objState ≠ .offline := by
  unfold logWith
  split
  · rename_i room
    refine ⟨by simpa using room, fun k hk => ?_⟩
    obtain hk | hk := List.mem_append.mp hk
    · exact h.2 k hk
    · obtain rfl := List.mem_singleton.mp hk
      exact inService
  · obtain ⟨length, states⟩ := suppressNewest_logBounded (log := s.log)
    refine ⟨length ▸ h.1, fun k hk => ?_⟩
    obtain ⟨x, hx, same⟩ := states k hk
    rw [same]
    exact h.2 x hx

/-- A window that fails an access is active, contains it and fails it, and its object is in service (R129, R135). -/
theorem State.failsAt_eq_some {s : State} {m : Master} {addr : WordAddr} {dir : Direction} {i : WindowNum}
    {f : FailedWindow} (h : s.failsAt m addr dir i = some f) :
    s.windowActive (s.win i) = true ∧ (s.win i).contains (granuleOf addr) = true ∧ f.index = i ∧
      f.window = s.win i ∧ checkAccess (s.win i).kind dir m (s.obj (s.win i).object) = some f.cause := by
  unfold State.failsAt at h
  dsimp only at h
  split at h
  · rename_i applies
    rw [Bool.and_eq_true] at applies
    obtain ⟨cause, check, rfl⟩ := Option.map_eq_some_iff.mp h
    exact ⟨applies.1, applies.2, rfl, rfl, check⟩
  · cases h

theorem State.windowActive_inService {s : State} {g : GuardWindow} (h : s.windowActive g = true) :
    (s.obj g.object).state ≠ .offline := by
  simp only [State.windowActive, Bool.and_eq_true, bne_iff_ne] at h
  exact h.1.2

theorem observe_inv (m : Master) (addr : WordAddr) (dir : Direction) (s : State) (h : s.Inv) :
    (observe m addr dir s).Inv := by
  cases fails : s.failedWindows m addr dir with
  | nil => rw [observe_of_nil fails]; exact h
  | cons f rest =>
    have reported : f ∈ s.failedWindows m addr dir := by rw [fails]; simp
    obtain ⟨i, -, failing⟩ := List.mem_filterMap.mp reported
    obtain ⟨active, -, -, window, -⟩ := State.failsAt_eq_some failing
    let denied : State := { s with deny := (f :: rest).any fun x => x.window.action == .deny }
    have inService : (violationRecord m addr dir f denied).objState ≠ .offline := by
      show (s.obj f.window.object).state ≠ .offline
      rw [window]
      exact State.windowActive_inService active
    let stored : State := { denied with log := logWith (violationRecord m addr dir f denied) s.log }
    have storedInv : stored.Inv :=
      ⟨h.objects, h.pool, h.queues, h.supervisor, h.standing, h.quotas, h.waits, h.barred,
        logWith_bounded h.log inService, h.period, h.stopped⟩
    have offered : (offerRecord (violationRecord m addr dir f denied) denied).Inv := by
      rw [offerRecord_eq]
      split
      · refine (State.postEach_tableWork _ _ _).inv (State.postEach_poolSum _ _ _) ?_ storedInv
        have conduct := (stored.postEach_work stored.supervisors .logPending).conduct
        exact storedInv.sound.of_objects (State.postEach_objects _ _ _) (fun k => (conduct k).1)
          fun k => (conduct k).2.1
      · exact storedInv
    rw [observe_of_cons fails]
    exact (changeScore_tableWork _ _ _).inv (changeScore_poolSum _ _ _) (raise_sound offered.sound) offered

/-- The end of a TU keeps the invariant while the time base runs. -/
theorem endTimeUnit_inv {s : State} (h : s.Inv) (running : s.timeBase.runState = .running) :
    (endTimeUnit s).Inv where
  objects := (endTimeUnit_sound h.sound).objects
  pool := (endTimeUnit_poolSum s).trans h.pool
  queues := h.queues
  supervisor := h.supervisor
  standing := h.standing
  quotas := h.quotas
  waits m := by
    have same : (endTimeUnit s).waitsHeld m = s.waitsHeld m := by
      unfold State.waitsHeld
      congr 1
      refine List.map_congr_left fun o _ => ?_
      rw [endTimeUnit_obj, ObjectRec.lineTimeUnitEnds, ObjectRec.timeUnitEnds_line, List.countP_map]
      congr 1
      funext e
      simp
    rw [same]
    exact h.waits m
  barred := (endTimeUnit_sound h.sound).barred
  log := h.log
  period := Nat.zero_le _
  stopped stopped := by
    have : s.timeBase.runState = .stopped := stopped
    rw [running] at this
    cases this

theorem countPeriod_inv {s : State} (h : s.Inv) (running : s.timeBase.runState = .running) : (countPeriod s).Inv := by
  unfold countPeriod
  split
  · rename_i below
    refine ⟨h.objects, h.pool, h.queues, h.supervisor, h.standing, h.quotas, h.waits, h.barred, h.log, ?_, h.stopped⟩
    show s.timeBase.periodCount + 1 ≤ s.timeBase.dividerInForce
    bv_omega
  · exact endTimeUnit_inv h running

theorem takeOutstanding_inv {s : State} (h : s.Inv) : (takeOutstanding s).Inv :=
  (takeOutstanding_tableWork s).inv (takeOutstanding_poolSum s) (takeOutstanding_sound h.sound) h

theorem Occurs.inv {i : Instr} {s t : State} (h : Occurs i s t) (inv : s.Inv) : t.Inv := by
  have runs : (takeOutstanding s).timeBase = s.timeBase := (takeOutstanding_tableWork s).timeBase
  cases h with
  | period running => exact countPeriod_inv (takeOutstanding_inv inv) (by rw [runs]; exact running)
  | timeUnit running => exact endTimeUnit_inv (takeOutstanding_inv inv) (by rw [runs]; exact running)
  | deadline falls =>
    exact (deadline_tableWork _ s).inv (deadline_poolSum _ s) (deadline_sound inv.sound falls) inv
  | settle falls =>
    exact (settleExpires_tableWork _ s).inv (settleExpires_poolSum _ s) (settleExpires_sound inv.sound falls) inv
  | wait => exact (waitExpires_tableWork _ _ s).inv (waitExpires_poolSum _ _ s) (waitExpires_sound inv.sound) inv
  | @ceiling o _ reaches noDeadline =>
    have noSettle : (s.obj o).settleFallsOut = false := by
      have held := (inv.objects o).held_of_reachesCeiling reaches
      by_contra falls
      have := ((inv.objects o).settling_of_fallsOut (by simpa using falls)).1
      simp [ObjectRec.isHeld, this] at held
    exact (tenureEvent_tableWork _ s).inv (tenureEvent_poolSum _ s) (tenureEvent_sound inv.sound noSettle noDeadline) inv
  | @floor o _ reaches noDeadline =>
    have noSettle : (s.obj o).settleFallsOut = false := by
      have held := (inv.objects o).held_of_tenureRisesTo reaches
      by_contra falls
      have := ((inv.objects o).settling_of_fallsOut (by simpa using falls)).1
      simp [ObjectRec.isHeld, this] at held
    exact (tenureEvent_tableWork _ s).inv (tenureEvent_poolSum _ s) (tenureEvent_sound inv.sound noSettle noDeadline) inv
  | release => exact State.SameRecords.inv (s := s) (t := { s with resetAsserted := false }) ⟨rfl, rfl, rfl, rfl, rfl⟩ inv

/-! ### Reset -/

theorem ObjectRec.reset_inv : ObjectRec.reset.Inv where
  row := ⟨rfl, rfl, rfl, rfl, rfl, rfl⟩
  owed := ObjectRec.owedCounts_of_none rfl
  lineOrdered := List.Pairwise.nil
  lineDistinct := List.Pairwise.nil
  noHolderWaits := nofun
  allowance := by decide
  yieldRemaining := nofun
  waitRemaining := nofun
  dueAtOne := nofun
  exclusiveOnly := fun _ => ⟨nofun, nofun⟩

theorem reset_waitsHeld (m : Master) : State.reset.waitsHeld m = 0 := by
  simp [State.waitsHeld, ObjectRec.reset]

/-- Settles O2: each record is at its power-on value, which is within every bound. -/
theorem resetStateHasInv : Obligations.ResetStateHasInv where
  objects o := by rw [State.reset_obj]; exact ObjectRec.reset_inv
  pool := reset_poolConserved
  queues := reset_queuesBounded
  supervisor := reset_hasSupervisor
  standing m := by rw [State.reset_mst]; rfl
  quotas m := by rw [State.reset_mst]; decide +revert
  waits m := by rw [reset_waitsHeld]; exact Nat.zero_le _
  barred m barred := by rw [State.reset_mst] at barred; cases barred
  log := ⟨Nat.zero_le _, nofun⟩
  period := by unfold State.PeriodBounded; decide
  stopped _ := by
    rw [State.outstanding_eq_nil_iff]
    intro o
    rw [State.reset_obj]
    exact ⟨rfl, nofun⟩

/-- Settles O60: the invariant looks at the records alone, holds after reset, and is kept by every port write, every
observation and every event. -/
theorem stepKeepsInv : Obligations.StepKeepsInv := by
  intro s t inv taken
  exact step_keeps (fun _ _ same => same.inv) resetStateHasInv Carried.inv observe_inv Occurs.inv taken inv

end Sys2Proof.Machine
end

section
/-! PROOFS. What the client commands answer: CLAIM granted, joined and refused, and the refusals and answers of RELEASE,
WITHDRAW, WATCH, UNWATCH, ACK_EVENT and RESET_SELF (R22, R27 to R34, R55, R107, R117, R122). -/

namespace Sys2Proof.Machine

/-! ### CLAIM -/

/-- Settles O5: a claim that passes the checks of R27 on a FREE object is granted at once (R29). -/
theorem claimGrantedOnFree : Obligations.ClaimGrantedOnFree := by
  intro m w s released wellFormed notBarred free row modeAllowed
  obtain ⟨noHolders, noLine, -⟩ : (s.obj (objectField w)).holders = 0 ∧ (s.obj (objectField w)).line = [] ∧ _ := by
    rw [ObjectRec.Row, free] at row; exact row
  have admitted := firstFailing_claimChecks_eq_none wellFormed notBarred (by rw [free]; decide)
    (by rw [noHolders]; simp) (by simp [State.isWaiting, noLine]) modeAllowed
  rw [exec_claim_of_admitted released admitted, claimAdmitted_of_free (s := s.acknowledged) free]
  cases mode : claimMode w <;> rfl

/-- An admitted shared claim joins the present tenure where it may (R30). -/
theorem claimAdmitted_of_joinable {m : Master} {w : Word} {s : State}
    (joinable : (s.obj (objectField w)).joinable (claimMode w) = true) :
    claimAdmitted m w s = (sharedJoin m (objectField w) s).answer m (ResultRec.granted (objectEcho w)) := by
  have held : (s.obj (objectField w)).state = .heldShared := by
    simp only [ObjectRec.joinable, Bool.and_eq_true, beq_iff_eq] at joinable
    exact joinable.1.1.1
  simp [claimAdmitted, held, joinable]

/-- Settles O6: such a claim passes the checks of R27 and finds the shared tenure open to it (R28, R30). -/
theorem claimJoinsSharedTenure : Obligations.ClaimJoinsSharedTenure := by
  intro m w s released wellFormed notBarred held shared shareable notHolder noLine noYield
  have admitted := firstFailing_claimChecks_eq_none wellFormed notBarred (by rw [held]; decide) notHolder
    (by simp [State.isWaiting, noLine]) (fun _ => shareable)
  have joinable : (s.obj (objectField w)).joinable (claimMode w) = true := by
    simp [ObjectRec.joinable, held, shared, noLine, noYield]
  rw [exec_claim_of_admitted released admitted, claimAdmitted_of_joinable (s := s.acknowledged) joinable]
  rfl

/-- Settles O9: after the checks of R27 the object is not grantable, and the three reasons of R32 are the checks of a
claim that may wait, in their order. -/
theorem claimWaitRefusals : Obligations.ClaimWaitRefusals := by
  intro m w s reason released wellFormed notBarred notOffline notHolder notWaiting modeAllowed notGrantable mayWait order
  have admitted := firstFailing_claimChecks_eq_none wellFormed notBarred notOffline notHolder notWaiting modeAllowed
  have fails : firstFailing (waitChecks m w s) = some reason := by
    rw [← order]; simp [waitChecks, firstFailing_cons, mayWait]
  rw [exec_claim_of_admitted released admitted, claimAdmitted_of_not_grantable (s := s.acknowledged) notGrantable]
  exact congrArg _ (State.checked_of_some (s := s.acknowledged) fails _)

/-- Settles O10: the conditions of R27 are the checks of a CLAIM, in their order. -/
theorem claimRefusalOrder : Obligations.ClaimRefusalOrder := by
  intro m w s reason released order
  have fails : firstFailing (claimChecks m w s) = some reason := by
    rw [← order]
    simp [claimChecks, firstFailing_cons, claimMalformed, bitsOutside_iff, claimMask, claimMaskA, claimMode,
      State.isWaiting]
  exact answerWindow_checked_of_some released fails

/-! ### RELEASE, WITHDRAW, WATCH, UNWATCH and RESET_SELF refused -/

/-- A check order that begins with the form of the words ends there when they are malformed (R22, R24). -/
theorem firstFailing_of_malformed {malformed : Bool} (h : malformed = true) (rest : List (Bool × Reason)) :
    firstFailing ((malformed, .badOperand) :: rest) = some .badOperand := by
  rw [firstFailing_cons, if_pos h]

/-- A RESET_SELF, taken (R107). -/
theorem exec_resetSelf (m : Master) (w : Word) {s : State} (released : s.resetAsserted = false) :
    exec (.resetSelf m w) s = .next (if w != 0
      then s.acknowledged.refuse m .badOperand 0
      else (clearing m s.acknowledged).answer m (ResultRec.doneCount 0 (clearingCount m s.acknowledged))) :=
  calc exec (.resetSelf m w) s = answerWindow s (resetSelf m w) := rfl
    _ = _ := answerWindow_checked_badOperand released _ _ _ _

/-- Settles O13: in each command the named check is the first to fail (R22, R34, R55, R107, R122, R123). -/
theorem clientRefusals : Obligations.ClientRefusals := by
  intro m w s released refused
  refine ⟨fun outside => ?_, fun inside => ⟨fun notHolder => ?_, fun notWaiting => ?_⟩, fun notZero => ?_⟩
  · have malformed : bitsOutside w objectMask = true := (bitsOutside_iff w objectMask).mpr outside
    have fails (rest) := firstFailing_of_malformed malformed rest
    refine ⟨answerWindow_checked_of_some released (fails _), answerWindow_checked_of_some released (fails _),
      answerWindow_checked_of_some released (fails _), ?_⟩
    rw [exec_unwatch m w released, if_pos malformed]
    rfl
  · have wellFormed : bitsOutside w objectMask = false := (bitsOutside_eq_false_iff w objectMask).mpr inside
    have fails : firstFailing (releaseChecks m w s) = some .notHolder := by
      simp [releaseChecks, firstFailing_cons, wellFormed, notHolder]
    exact answerWindow_checked_of_some released fails
  · have wellFormed : bitsOutside w objectMask = false := (bitsOutside_eq_false_iff w objectMask).mpr inside
    have fails : firstFailing (withdrawChecks m w s) = some .notWaiting := by
      simp [withdrawChecks, firstFailing_cons, wellFormed, notWaiting]
    exact answerWindow_checked_of_some released fails
  · rw [exec_resetSelf m w released, if_pos (bne_iff_ne.mpr notZero)]
    rfl

/-! ### WATCH -/

/-- Settles O15: a WATCH is refused by a BARRED writer's standing or an OFFLINE object, answered at once on a FREE one,
and else puts its writer into the watch set (R122). -/
theorem watchOutcomes : Obligations.WatchOutcomes := by
  intro m w s released wellFormed
  split
  · rename_i barred
    exact answerWindow_checked_of_some released (by simp [watchChecks, firstFailing_cons, wellFormed, barred])
  rename_i notBarred
  split
  · rename_i isOffline
    exact answerWindow_checked_of_some released
      (by simp [watchChecks, firstFailing_cons, wellFormed, notBarred, isOffline])
  rename_i notOffline
  have passes : firstFailing (watchChecks m w s) = none :=
    firstFailing_watchChecks_eq_none_iff.mpr ⟨wellFormed, notBarred, notOffline⟩
  have taken : exec (.watch m w) s =
      .next ((watchAdmitted m (objectField w) s.acknowledged).answer m (ResultRec.done (objectEcho w))) :=
    answerWindow_checked_of_none released passes
  rw [taken]
  split
  · rename_i free
    rw [watchAdmitted, if_pos (by simp [free])]
    rfl
  · rename_i notFree
    rw [watchAdmitted, if_neg (by simp [notFree])]
    rfl

/-! ### ACK_EVENT, and what posting stores -/

/-- Settles O17: ACK_EVENT is refused for its word or for an empty queue, and else drops the head record; with none left
ATN falls (R117, R119). -/
theorem ackEventRemovesHead : Obligations.AckEventRemovesHead := by
  intro m s released
  refine ⟨fun w notZero => ?_, fun e rest queued => ?_, fun empty => ?_⟩
  · exact answerWindow_checked_of_some released (firstFailing_of_malformed (bne_iff_ne.mpr notZero) _)
  · have passes : firstFailing (ackEventChecks m 0 s) = none := by simp [ackEventChecks, firstFailing_cons, queued]
    have dropped : (s.acknowledged.modMst m fun r => { r with queue := r.queue.tail }) =
        s.acknowledged.modMst m fun r => { r with queue := rest } := State.modMst_congr (by simp [queued])
    refine ⟨_, answerWindow_checked_of_none released passes, by rw [dropped]; rfl, fun last => ?_⟩
    simp [State.atn, queued, last]
  · exact answerWindow_checked_of_some released (by simp [ackEventChecks, firstFailing_cons, empty])

/-- Settles O20: a record is stored at the tail of a queue with room and discarded with the overflow flag set otherwise,
and takes a sequence number in either case (R110, R113, R114). -/
theorem postStoresOrDiscards : Obligations.PostStoresOrDiscards := by
  intro s m n
  refine ⟨?_, fun k other => State.post_mst_ne s other n, rfl⟩
  rw [State.post_mst_self]
  rfl

end Sys2Proof.Machine
end

section
/-! PROOFS. A claim queued in its place, and RELEASE: the holder removed, the handover and the credit (R33 to R46). -/

namespace Sys2Proof.Machine

/-! ### An answer on top of a piece of work -/

/-- The result record written depends on the banked registers alone. -/
theorem State.answer_ports_congr {s t : State} (same : t.ports = s.ports) (m : Master) (r : ResultRec) :
    (t.answer m r).ports = (s.answer m r).ports := by
  unfold State.answer State.modPort State.port
  rw [same]

/-- Work of the Object Table is so with the same answer written before it and after it. -/
theorem State.ObjectWork.answer {s t : State} (work : s.ObjectWork t) (m : Master) (r : ResultRec) :
    (s.answer m r).ObjectWork (t.answer m r) where
  ports := State.answer_ports_congr work.ports m r
  windows := work.windows
  log := work.log
  timeBase := work.timeBase
  resetAsserted := work.resetAsserted
  ack := work.ack
  deny := work.deny
  dataOut := work.dataOut
  choices := work.choices
  pending := work.pending
  conduct := work.conduct

/-- Work of the Object Table leaves the other devices as they stand. -/
theorem State.ObjectWork.sameDevices {s t : State} (work : s.ObjectWork t) : s.SameDevices t :=
  ⟨work.windows, work.log, work.timeBase, work.resetAsserted, work.choices, work.pending⟩

/-! ### The contention test of a claim -/

/-- The five conditions of R69, in the order of the claims. -/
theorem ObjectRec.contended_iff (r : ObjectRec) :
    r.contended = true ↔ r.isHeld = true ∧ r.contentionYield = true ∧ r.line ≠ [] ∧
      r.floor.toNat ≤ r.tenure.toNat ∧ r.yieldPending = none := by
  have floor : (r.floor.setWidth 16 ≤ r.tenure) ↔ r.floor.toNat ≤ r.tenure.toNat := by
    have := r.floor.isLt
    rw [BitVec.le_def, BitVec.toNat_setWidth, Nat.mod_eq_of_lt (by omega)]
  simp [contended, floor, and_assoc]

theorem effectivePriority_eq (standing : Standing) (priority : BitVec 4) :
    effectivePriority standing priority = if standing = .warned ∧ 7#4 < priority then 7#4 else priority := by
  simp only [effectivePriority, Bool.and_eq_true, beq_iff_eq, decide_eq_true_iff]

theorem initialWait_eq (limit : BitVec 16) : initialWait limit = if limit = 0 then none else some limit := by
  simp only [initialWait, beq_iff_eq]

/-- A new entry's place: every entry ahead has its priority or a higher one, and the first behind a lower one (R50). -/
theorem insertEntry_splits (e : Entry) (line : List Entry) :
    ∃ ahead behind, line = ahead ++ behind ∧ insertEntry e line = ahead ++ e :: behind ∧
      insertPosition e.priority line = ahead.length + 1 ∧ (∀ x ∈ ahead, e.priority ≤ x.priority) ∧
      ∀ x, behind.head? = some x → x.priority < e.priority := by
  refine ⟨_, _, List.takeWhile_append_dropWhile.symm, insertEntry_eq e line, insertPosition_eq e line,
    fun x mem => ?_, fun x head => ?_⟩
  · simpa using List.mem_takeWhile_imp mem
  · have first := List.head?_dropWhile_not (fun x : Entry => !decide (x.priority < e.priority)) line
    rw [head] at first
    simpa using first

/-- What queueing a claim does to its object: the entry stands in the line, and the contention test is made (R33). -/
theorem queueClaim_obj (m : Master) (w : Word) (s : State) :
    (queueClaim m w s).obj (objectField w) =
      let queued := { s.obj (objectField w) with line := insertEntry (claimEntry m w s) (s.obj (objectField w)).line }
      if queued.contended then
        { queued with
          yieldPending := some { remaining := (s.obj (objectField w)).allowance, reason := .contention }
          owed := { (s.obj (objectField w)).owed with yield := false } }
      else queued := by
  rw [queueClaim, contentionTest_obj, State.modObj_obj_self]
  rfl

/-- What it posts: YIELD_ASKED to every holder, if the contention test asks a yield (R69, R73). -/
theorem queueClaim_mst (m : Master) (w : Word) (s : State) (k : Master) :
    (queueClaim m w s).mst k =
      if ({ s.obj (objectField w) with
            line := insertEntry (claimEntry m w s) (s.obj (objectField w)).line } : ObjectRec).contended &&
          isMember (s.obj (objectField w)).holders k then
        (s.mst k).post (.yieldAsked (objectField w) .contention (s.obj (objectField w)).allowance)
      else s.mst k := by
  rw [queueClaim, contentionTest_mst, State.modObj_obj_self]
  rfl

theorem queueClaim_only (m : Master) (w : Word) (s : State) :
    State.OnlyObject (objectField w) s (queueClaim m w s) :=
  (State.modObj_only s.takeEntry _ _).trans (contentionTest_only _ _)

theorem queueClaim_poolFree (m : Master) (w : Word) (s : State) : (queueClaim m w s).poolFree = s.poolFree - 1 := by
  rw [queueClaim, contentionTest_poolFree]
  rfl

/-- Settles O8: the claim passes both check orders, and the queued entry is the one that its words spell, in its place;
the contention test after it is the one of R69. -/
theorem claimQueued : Obligations.ClaimQueued := by
  intro m w s released wellFormed notBarred notRestricted notOffline notHolder notWaiting modeAllowed notGrantable
    mayWait below poolLeft
  have admitted := firstFailing_claimChecks_eq_none wellFormed notBarred notOffline notHolder notWaiting modeAllowed
  have passes : firstFailing (waitChecks m w s) = none :=
    firstFailing_waitChecks_eq_none_iff.mpr ⟨mayWait, notRestricted, below, poolLeft⟩
  have taken : exec (.claim m w) s = .next ((queueClaim m w s.acknowledged).answer m
      (ResultRec.queued (objectEcho w)
        (insertPosition (claimEntry m w s).priority (s.obj (objectField w)).line))) := by
    rw [exec_claim_of_admitted released admitted, claimAdmitted_of_not_grantable (s := s.acknowledged) notGrantable]
    exact congrArg _ (State.checked_of_none (s := s.acknowledged) passes _)
  obtain ⟨ahead, behind, split, inserted, position, before, after⟩ :=
    insertEntry_splits (claimEntry m w s) (s.obj (objectField w)).line
  have obj := queueClaim_obj m w s.acknowledged
  have mst := queueClaim_mst m w s.acknowledged
  have waits := queueClaim_waitsHeld m w s.acknowledged m
  have pool := queueClaim_poolFree m w s.acknowledged
  have work := queueClaim_work m w s.acknowledged
  have only := queueClaim_only m w s.acknowledged
  rw [if_pos rfl] at waits
  have sameEntry : claimEntry m w s.acknowledged = claimEntry m w s := rfl
  simp only [State.acknowledged_obj, State.acknowledged_mst, sameEntry, inserted] at obj mst
  rw [position] at taken
  generalize queueClaim m w s.acknowledged = u at taken obj mst waits pool work only
  refine ⟨_, claimEntry m w s, ahead, behind,
    ({ s.obj (objectField w) with line := ahead ++ claimEntry m w s :: behind } : ObjectRec).contended, taken, ?_, split, before, after, ?_, ?_, ?_, waits, ?_, only,
    work.answer m _⟩
  · simp only [claimEntry, effectivePriority_eq, initialWait_eq]
    rfl
  · have contended := ObjectRec.contended_iff
      { s.obj (objectField w) with line := ahead ++ claimEntry m w s :: behind }
    rw [contended]
    simp [ObjectRec.isHeld]
  · refine obj.trans ?_
    split <;> rfl
  · have pool : u.poolFree = s.poolFree - 1 := pool
    show u.poolFree + 1 = s.poolFree
    omega
  · intro k
    refine (mst k).trans ?_
    simp only [Bool.and_eq_true]

/-! ### The credit of a RELEASE -/

/-- A master's record after a credit that leaves it short of BARRED (R37, R92). -/
def MasterRec.credited (r : MasterRec) : MasterRec :=
  let credited := { r with score := creditScore r.score, standing := standingOf (creditScore r.score) }
  if standingOf (creditScore r.score) = r.standing then credited
  else credited.post (.standing (standingOf (creditScore r.score)) (creditScore r.score))

@[simp] theorem MasterRec.credited_score (r : MasterRec) : r.credited.score = creditScore r.score := by
  unfold credited; split
  · rfl
  · rw [MasterRec.post_score]

@[simp] theorem MasterRec.credited_standing (r : MasterRec) :
    r.credited.standing = standingOf (creditScore r.score) := by
  unfold credited; split
  · rfl
  · rw [MasterRec.post_standing]

/-- Credit to a master that is not BARRED, its standing its score's, is one change of its record (R37, R92). -/
theorem credit_eq_modMst {m : Master} {s : State} (fromScore : (s.mst m).standing = standingOf (s.mst m).score)
    (notBarred : (s.mst m).standing ≠ .barred) : credit m s = s.modMst m MasterRec.credited := by
  have low : ¬ 192 ≤ (s.mst m).score.toNat := fun high =>
    notBarred (fromScore.trans ((standingOf_eq_barred_iff _).mpr high))
  have stillLow : standingOf (creditScore (s.mst m).score) ≠ .barred := by
    rw [ne_eq, standingOf_eq_barred_iff, creditScore_toNat]; omega
  have now := recomputeStanding_eq (score := creditScore (s.mst m).score) fun barred => absurd barred notBarred
  have recorded : (s.mst m).withScore (creditScore (s.mst m).score) =
      { s.mst m with
        score := creditScore (s.mst m).score, standing := standingOf (creditScore (s.mst m).score) } := by
    rw [MasterRec.withScore, now]
  obtain ⟨same, course⟩ | ⟨-, barred, -⟩ | ⟨changed, -, course⟩ := changeScore_cases m (creditScore (s.mst m).score) s
  · rw [credit, course]
    rw [now] at same
    exact State.modMst_congr (by rw [MasterRec.credited, if_pos same, recorded])
  · exact absurd (now.symm.trans barred) stillLow
  · rw [now] at changed
    rw [credit, course, State.post, State.modMst_modMst]
    refine State.modMst_congr ?_
    rw [MasterRec.credited, if_neg changed, now]
    exact congrArg (MasterRec.post · _) recorded

/-! ### RELEASE -/

/-- A RELEASE that passes its checks, taken (R34 to R37). -/
theorem exec_release_of_holder {m : Master} {w : Word} {s : State} (released : s.resetAsserted = false)
    (wellFormed : bitsOutside w objectMask = false) (holder : isMember (s.obj (objectField w)).holders m = true) :
    exec (.release m w) s = .next ((credit m (releaseHold m (objectField w) s.acknowledged)).answer m
      (ResultRec.done (objectEcho w))) :=
  answerWindow_checked_of_none released
    (firstFailing_releaseChecks_eq_none_iff (s := s.acknowledged).mpr ⟨wellFormed, holder⟩)

/-- A holder removed with others left changes the holder set alone (R35). -/
theorem releaseHold_of_others {m : Master} {o : ObjNum} {s : State}
    (others : removeMember (s.obj o).holders m ≠ 0) :
    releaseHold m o s = s.modObj o fun r => r.dropHolder m := by
  have left : ((s.modObj o fun r => r.dropHolder m).obj o).holders ≠ 0 := by rwa [State.modObj_obj_self]
  rw [releaseHold, afterRemoval, if_neg (by simpa using left)]

/-- Settles O11: the other holders keep the object, and the writer's credit is one change of its record. -/
theorem releaseLeavesOtherHolders : Obligations.ReleaseLeavesOtherHolders := by
  intro m w s released wellFormed holder others fromScore notBarred
  have taken := exec_release_of_holder released wellFormed holder
  rw [releaseHold_of_others (s := s.acknowledged) others,
    credit_eq_modMst (s := s.acknowledged.modObj _ _) fromScore notBarred] at taken
  have record : ((s.acknowledged.modObj (objectField w) fun r => r.dropHolder m).modMst m MasterRec.credited).mst m =
      (s.mst m).credited := State.modMst_mst_self _ _ _
  refine ⟨_, taken, rfl, ?_, ?_, ?_, fun k other => State.modMst_mst_ne _ other _, rfl, rfl, ⟨rfl, rfl, rfl, rfl, rfl, rfl⟩⟩
  · rw [State.answer_mst, record, MasterRec.credited_score, creditScore_toNat]
  · rw [State.answer_mst, record, MasterRec.credited_score, MasterRec.credited_standing]
  · rw [State.answer_mst, record, MasterRec.credited_score]
    rfl

/-! ### What a handover makes of the object -/

@[simp] theorem ObjectRec.handedOver_tenure (r : ObjectRec) (batch left : List Entry) :
    (r.handedOver batch left).tenure = 0 := by
  cases batch <;> rfl

theorem ObjectRec.handedOver_cons_state (r : ObjectRec) (e : Entry) (batch left : List Entry) :
    (r.handedOver (e :: batch) left).state = if e.mode = .exclusive then .heldExclusive else .heldShared := rfl

theorem ObjectRec.handedOver_state_ne_settling (r : ObjectRec) (batch left : List Entry) :
    (r.handedOver batch left).state ≠ .settling := by
  cases batch with
  | nil => exact fun settling => by cases settling
  | cons e _ =>
    rw [handedOver_cons_state]
    split <;> decide

/-- With an entry granted the holders are the masters of the batch (R42, R43). -/
theorem ObjectRec.isMember_handedOver_cons (r : ObjectRec) (e : Entry) (batch left : List Entry) (k : Master) :
    isMember (r.handedOver (e :: batch) left).holders k = true ↔ ∃ x ∈ e :: batch, x.master = k := by
  rw [handedOver, isMember_setOf, decide_eq_true_iff, List.mem_map]

/-- The batch of an EXCLUSIVE head is the head alone (R42). -/
theorem grantedEntries_of_exclusive {e : Entry} (mode : e.mode = .exclusive) (rest : List Entry) :
    grantedEntries (e :: rest) = [e] ∧ remainingEntries (e :: rest) = rest := by
  simp [grantedEntries, remainingEntries, mode]

/-- A handover of an empty line leaves the object FREE (R41). -/
theorem ObjectRec.handedOver_of_no_line {r : ObjectRec} (noLine : r.line = []) :
    r.handedOver (grantedEntries r.line) (remainingEntries r.line) =
      { r with state := .free, holders := 0, tenure := 0, yieldPending := none, watchers := 0, owed := Owed.none } := by
  rw [noLine]
  simp only [grantedEntries, remainingEntries, handedOver]

/-! ### RELEASE of the last holder -/

/-- The removal of the last holder is handover as a voluntary emptying: the whole of its effect (R36, R41 to R46). -/
theorem releaseHold_of_last {m : Master} {o : ObjNum} {s : State} (last : removeMember (s.obj o).holders m = 0) :
    (releaseHold m o s).obj o =
        (s.obj o).handedOver (grantedEntries (s.obj o).line) (remainingEntries (s.obj o).line) ∧
      (releaseHold m o s).poolFree = s.poolFree + (grantedEntries (s.obj o).line).length ∧
      ∀ k, (releaseHold m o s).mst k =
        (s.mst k).handedOver o (s.obj o) (grantedEntries (s.obj o).line) (remainingEntries (s.obj o).line) k := by
  have emptied : releaseHold m o s =
      handoverFromStep2 o ((s.modObj o fun r => r.dropHolder m).modObj o ObjectRec.endTenure) := by
    rw [releaseHold, afterRemoval, if_pos (by simp [ObjectRec.dropHolder, last])]
    rfl
  obtain ⟨-, obj, pool, mst⟩ := handoverFromStep2_handedOver o
    ((s.modObj o fun r => r.dropHolder m).modObj o ObjectRec.endTenure) (s.obj o)
    (by simp [ObjectRec.dropHolder, ObjectRec.endTenure, last])
  rw [emptied]
  exact ⟨obj, pool, mst⟩

theorem releaseHold_only (m : Master) (o : ObjNum) (s : State) : State.OnlyObject o s (releaseHold m o s) :=
  (s.modObj_only o _).trans (afterRemoval_only false o _)

/-- Settles O12: the release hands the object over as `releaseHold_of_last` says, and the writer's credit comes after it
and changes its record alone. -/
theorem releaseOfLastHolderHandsOver : Obligations.ReleaseOfLastHolderHandsOver := by
  intro m w s released wellFormed holder last fromScore notBarred
  have taken := exec_release_of_holder released wellFormed holder
  obtain ⟨obj, pool, mst⟩ := releaseHold_of_last (s := s.acknowledged) last
  have work := releaseHold_work m (objectField w) s.acknowledged
  have only := releaseHold_only m (objectField w) s.acknowledged
  generalize releaseHold m (objectField w) s.acknowledged = u at taken obj pool mst work only
  obtain ⟨score, standing, -⟩ : (u.mst m).score = (s.mst m).score ∧ (u.mst m).standing = (s.mst m).standing ∧ _ :=
    work.conduct m
  rw [credit_eq_modMst (by rw [score, standing]; exact fromScore) (by rwa [standing])] at taken
  simp only [State.acknowledged_obj, State.acknowledged_mst, State.acknowledged_poolFree] at obj pool mst
  have sorted : BatchOf (s.obj (objectField w)).line _ _ := batchOf_grantedEntries _
  have record : ((u.modMst m MasterRec.credited).answer m (ResultRec.done (objectEcho w))).mst m =
      (u.mst m).credited := State.modMst_mst_self u m _
  have others (k : Master) (other : k ≠ m) :
      ((u.modMst m MasterRec.credited).answer m (ResultRec.done (objectEcho w))).mst k = u.mst k :=
    State.modMst_mst_ne u other _
  refine ⟨_, taken, fun noLine => ⟨?_, ?_⟩, fun e rest line mode => ?_, fun e rest line mode => ?_, ?_, ?_, ?_,
    fun k other => ?_, ⟨_, _, sorted, obj, pool, fun k other => ?_, ?_⟩, only,
    State.answer_ports_congr work.ports m _, ?_⟩
  · exact obj.trans (ObjectRec.handedOver_of_no_line noLine)
  · rw [noLine] at pool; exact pool
  · obtain ⟨batch, left⟩ := grantedEntries_of_exclusive mode rest
    rw [line, batch] at pool
    rw [line, batch, left] at obj
    have obj : ((u.modMst m MasterRec.credited).answer m (ResultRec.done (objectEcho w))).obj (objectField w) = _ := obj
    rw [obj]
    exact ⟨by rw [ObjectRec.handedOver_cons_state, if_pos mode], setOf_singleton _, rfl, pool, rfl, rfl⟩
  · obtain ⟨batch, granted⟩ := grantedEntries_cons e rest
    rw [line] at sorted
    rw [line, granted] at obj pool
    have obj : ((u.modMst m MasterRec.credited).answer m (ResultRec.done (objectEcho w))).obj (objectField w) = _ := obj
    obtain ⟨allShared, untilExclusive⟩ := sorted.shared e rfl mode
    rw [granted] at allShared sorted
    rw [obj]
    exact ⟨by rw [ObjectRec.handedOver_cons_state, mode]; rfl, e :: batch, remainingEntries (e :: rest), sorted.split, allShared,
      untilExclusive, rfl, ObjectRec.isMember_handedOver_cons _ e batch _, pool, rfl, rfl⟩
  · exact congrArg ObjectRec.tenure obj |>.trans (ObjectRec.handedOver_tenure _ _ _)
  · exact fun settling =>
      ObjectRec.handedOver_state_ne_settling _ _ _ ((congrArg ObjectRec.state obj).symm.trans settling)
  · rw [record, MasterRec.credited_score, creditScore_toNat, score]
  · rw [others k other]; exact work.conduct k
  · rw [others k other]; exact mst k
  · rw [record, MasterRec.credited_score]
    rw [← mst m, ← standing]
    rfl
  · exact ⟨work.windows, work.log, work.timeBase, work.resetAsserted, work.choices, work.pending⟩

end Sys2Proof.Machine
end

section
/-! PROOFS. What the supervisor commands answer: their refusals, and the settings of a quota, of a supervisor, an object's
configuration and ONLINE, and ACK_LOG (R10 to R12, R22, R100 to R108, R127, R147, R152). -/

namespace Sys2Proof.Machine

/-! ### The first two checks of every supervisor command -/

/-- The words of a supervisor command are malformed, its second check. -/
def supervisorMalformed : Instr → State → Bool
  | .configObject m w => fun s => configMalformed w (s.port m).operandA
  | .online _ w => fun _ => bitsOutside w objectMask
  | .offline _ w => fun _ => bitsOutside w objectMask
  | .revoke _ w => fun _ => bitsOutside w objectMask
  | .setQuota _ w => fun _ => quotaMalformed w
  | .readmit _ w => fun _ => standingMalformed w
  | .bar _ w => fun _ => standingMalformed w
  | .setSupervisor _ w => fun _ => bitsOutside w supervisorMask
  | .clearMaster _ w => fun _ => bitsOutside w clearMask
  | .configGuard m w => fun s => guardMalformed w (s.port m).operandA (s.port m).operandB
  | .ackLog _ w => fun _ => w != 0
  | .setTimeBase _ w => fun _ => bitsOutside w timeBaseMask
  | _ => fun _ => false

/-- Every supervisor command checks its writer's privilege first and the form of its words second (R22, R104). -/
theorem exec_supervisorWrite {i : Instr} {m : Master} {echo : BitVec 6} (h : supervisorWrite i = some (m, echo)) :
    ∃ taken : State → State, (∀ s, exec i s = answerWindow s taken) ∧ ∀ s, ∃ rest carryOut,
      taken s = s.checked m echo
        ((notSupervisor m s, .notPrivileged) :: (supervisorMalformed i s, .badOperand) :: rest) carryOut := by
  cases i <;> cases h
  case configObject => exact ⟨_, fun _ => rfl, fun _ => ⟨_, _, rfl⟩⟩
  case online => exact ⟨_, fun _ => rfl, fun _ => ⟨_, _, rfl⟩⟩
  case offline => exact ⟨_, fun _ => rfl, fun _ => ⟨_, _, rfl⟩⟩
  case revoke => exact ⟨_, fun _ => rfl, fun _ => ⟨_, _, rfl⟩⟩
  case setQuota => exact ⟨_, fun _ => rfl, fun _ => ⟨_, _, rfl⟩⟩
  case readmit => exact ⟨_, fun _ => rfl, fun _ => ⟨_, _, rfl⟩⟩
  case bar => exact ⟨_, fun _ => rfl, fun _ => ⟨_, _, rfl⟩⟩
  case setSupervisor => exact ⟨_, fun _ => rfl, fun _ => ⟨_, _, rfl⟩⟩
  case clearMaster => exact ⟨_, fun _ => rfl, fun _ => ⟨_, _, rfl⟩⟩
  case configGuard w =>
    exact ⟨_, fun _ => rfl, fun s => ⟨[], fun u =>
      (u.setWin (windowField w) (guardFields w (s.port m).operandA (s.port m).operandB)).answer m
        (ResultRec.done (windowEcho w)), rfl⟩⟩
  case ackLog => exact ⟨_, fun _ => rfl, fun _ => ⟨_, _, rfl⟩⟩
  case setTimeBase => exact ⟨_, fun _ => rfl, fun _ => ⟨_, _, rfl⟩⟩

/-- A supervisor command with malformed words is acknowledged and refused BAD_OPERAND (R22, R24). -/
theorem exec_supervisorWrite_of_malformed {i : Instr} {m : Master} {echo : BitVec 6}
    (h : supervisorWrite i = some (m, echo)) {s : State} (released : s.resetAsserted = false)
    (supervisor : (s.mst m).supervisor = true) (malformed : supervisorMalformed i s.acknowledged = true) :
    exec i s = .next (s.acknowledged.refuse m .badOperand echo) := by
  obtain ⟨taken, window, order⟩ := exec_supervisorWrite h
  obtain ⟨rest, carryOut, checked⟩ := order s.acknowledged
  rw [window, answerWindow_of_released released, checked, State.checked_of_some (r := .badOperand)]
  rw [firstFailing_cons, if_neg (by simp [notSupervisor, supervisor]), firstFailing_cons, if_pos malformed]

/-- Settles O27: the check of the privilege is every supervisor command's first. -/
theorem supervisorCommandsNeedAttribute : Obligations.SupervisorCommandsNeedAttribute := by
  intro i m echo s isSupervisorWrite released plain
  obtain ⟨taken, window, order⟩ := exec_supervisorWrite isSupervisorWrite
  obtain ⟨rest, carryOut, checked⟩ := order s.acknowledged
  rw [window, answerWindow_of_released released, checked, State.checked_of_some (r := .notPrivileged)]
  · rfl
  · rw [firstFailing_cons, if_pos (by simp [notSupervisor, plain])]

/-! ### The further refusals -/

/-- CONFIG_OBJECT's words are malformed for a bit outside their fields or an allowance of 0 (R10). -/
theorem configMalformed_iff (w a : Word) :
    configMalformed w a = true ↔
      w &&& ~~~configMask ≠ 0 ∨ a &&& ~~~configMaskA ≠ 0 ∨ configAllowance a = 0 := by
  simp only [configMalformed, Bool.or_eq_true, bitsOutside_iff, beq_iff_eq, or_assoc]

/-- SET_STANDING's word is malformed for a bit outside its fields or an action without a meaning (R100). -/
theorem standingMalformed_iff (w : Word) :
    standingMalformed w = true ↔
      w &&& ~~~standingMask ≠ 0 ∨ standingAction w ≠ actionReadmit ∧ standingAction w ≠ actionBar := by
  simp only [standingMalformed, Bool.or_eq_true, bitsOutside_iff, Bool.and_eq_true, bne_iff_ne]

/-- CONFIG_GUARD's words are malformed for a bit outside the fields of any of the three (R127). -/
theorem guardMalformed_iff (w a b : Word) :
    guardMalformed w a b = true ↔
      w &&& ~~~guardMask ≠ 0 ∨ a &&& ~~~granuleMask ≠ 0 ∨ b &&& ~~~granuleMask ≠ 0 := by
  simp only [guardMalformed, Bool.or_eq_true, bitsOutside_iff, or_assoc]

/-- Settles O28: each refusal is the first failing check of its command, after that of the privilege. -/
theorem supervisorRefusals : Obligations.SupervisorRefusals := by
  intro m w s released supervisor
  have refused {i : Instr} {echo : BitVec 6} (h : supervisorWrite i = some (m, echo))
      (malformed : supervisorMalformed i s.acknowledged = true) :=
    exec_supervisorWrite_of_malformed h released supervisor malformed
  dsimp only
  refine ⟨fun bad => ?_, fun wellFormed online => ?_, fun outside => ?_, fun inside => ⟨fun isOffline => ?_,
    fun notHeld => ?_⟩, fun outside => ?_, fun bad => ?_, fun outside => ?_, fun outside => ?_, fun bad => ?_,
    fun notZero => ?_, fun outside => ?_⟩
  · exact refused rfl ((configMalformed_iff w _).mpr bad)
  · have fits : configMalformed w (s.port m).operandA = false := by
      rw [← Bool.not_eq_true]; exact mt (configMalformed_iff w _).mp wellFormed
    have fails : firstFailing (configChecks m w s) = some .notOffline := by
      simp [configChecks, firstFailing_cons, notSupervisor, supervisor, fits, online]
    exact answerWindow_checked_of_some released fails
  · have malformed := (bitsOutside_iff w objectMask).mpr outside
    exact ⟨refused rfl malformed, refused rfl malformed, refused rfl malformed⟩
  · have wellFormed := (bitsOutside_eq_false_iff w objectMask).mpr inside
    have fails : firstFailing (offlineChecks m w s) = some .offline := by
      simp [offlineChecks, firstFailing_cons, notSupervisor, supervisor, wellFormed, isOffline]
    exact answerWindow_checked_of_some released fails
  · have wellFormed := (bitsOutside_eq_false_iff w objectMask).mpr inside
    have fails : firstFailing (revokeChecks m w s) = some .notHeld := by
      simp [revokeChecks, firstFailing_cons, notSupervisor, supervisor, wellFormed, notHeld]
    exact answerWindow_checked_of_some released fails
  · have malformed : quotaMalformed w = true := by
      rw [quotaMalformed, (bitsOutside_iff w quotaMask).mpr outside, Bool.true_or]
    exact refused rfl malformed
  · have malformed := (standingMalformed_iff w).mpr bad
    exact ⟨refused rfl malformed, refused rfl malformed⟩
  · exact refused rfl ((bitsOutside_iff w supervisorMask).mpr outside)
  · exact refused rfl ((bitsOutside_iff w clearMask).mpr outside)
  · exact refused rfl ((guardMalformed_iff w _ _).mpr bad)
  · exact refused rfl (bne_iff_ne.mpr notZero)
  · exact refused rfl ((bitsOutside_iff w timeBaseMask).mpr outside)

/-! ### SET_QUOTA and SET_SUPERVISOR -/

/-- Settles O23: a quota above 32 is malformed, and any other is set (R103). -/
theorem setQuotaSetsQuota : Obligations.SetQuotaSetsQuota := by
  intro m w s released supervisor wellFormed
  have malformed_iff : quotaMalformed w = true ↔ ¬ (quotaField w).toNat ≤ 32 := by
    rw [quotaMalformed, wellFormed, Bool.false_or, decide_eq_true_iff, BitVec.lt_def]
    simp
  split
  · rename_i fits
    have passes := firstFailing_supervisor_eq_none_iff (m := m) (s := s.acknowledged).mpr
      ⟨supervisor, Bool.eq_false_iff.mpr fun bad => malformed_iff.mp bad fits⟩
    calc exec (.setQuota m w) s = answerWindow s (setQuota m w) := rfl
      _ = .next (setQuota m w s.acknowledged) := answerWindow_of_released released _
      _ = _ := congrArg _ (State.checked_of_none passes _)
  · rename_i tooMany
    exact exec_supervisorWrite_of_malformed (i := .setQuota m w) rfl released supervisor (malformed_iff.mpr tooMany)

/-- The last supervisor is one, and no other master is (R105). -/
theorem lastSupervisor_iff (n : Master) (s : State) :
    lastSupervisor n s = true ↔ (s.mst n).supervisor = true ∧ ∀ k, k ≠ n → (s.mst k).supervisor = false := by
  simp only [lastSupervisor, Bool.and_eq_true, List.all_eq_true, Bool.or_eq_true, beq_iff_eq, Bool.not_eq_true',
    mem_allMasters, true_implies, or_iff_not_imp_left]

/-- Settles O26: the setting no is refused just where it would leave no supervisor (R105). -/
theorem setSupervisorKeepsOne : Obligations.SetSupervisorKeepsOne := by
  intro m w s released supervisor wellFormed
  refine ⟨fun kept => ?_, fun settingNo isSupervisor alone => ?_⟩
  · have passes : firstFailing (supervisorChecks m w s) = none := by
      refine firstFailing_supervisorChecks_eq_none_iff.mpr ⟨supervisor, wellFormed, fun settingNo => ?_⟩
      rw [Bool.eq_false_iff]
      intro last
      obtain ⟨named, alone⟩ := (lastSupervisor_iff _ _).mp last
      obtain settingYes | notNamed | ⟨k, other, another⟩ := kept
      · exact Bool.false_ne_true (settingNo.symm.trans settingYes)
      · exact Bool.false_ne_true (notNamed.symm.trans named)
      · exact Bool.false_ne_true ((alone k other).symm.trans another)
    exact answerWindow_checked_of_none released passes
  · have last := (lastSupervisor_iff (masterField w) s).mpr ⟨isSupervisor, alone⟩
    have settingNo : supervisorSetting w = false := settingNo
    have fails : firstFailing (supervisorChecks m w s) = some .lastSupervisor := by
      simp [supervisorChecks, firstFailing_cons, notSupervisor, supervisor, wellFormed, settingNo, last]
    exact answerWindow_checked_of_some released fails

/-! ### CONFIG_OBJECT and ONLINE -/

/-- Settles O30: the words pass the checks, and the record written is the one that their fields spell (R11). -/
theorem configObjectWritesConfiguration : Obligations.ConfigObjectWritesConfiguration := by
  intro m w s released supervisor portWord operand allowance isOffline
  have fits : configMalformed w (s.port m).operandA = false := by
    rw [← Bool.not_eq_true]
    rintro bad
    obtain outside | outside | zero := (configMalformed_iff w _).mp bad
    · exact outside portWord
    · exact outside operand
    · exact allowance zero
  have passes := firstFailing_configChecks_eq_none_iff.mpr ⟨supervisor, fits, isOffline⟩
  exact answerWindow_checked_of_none released passes

/-- Settles O31: an OFFLINE object becomes FREE, and any other refuses (R12). -/
theorem onlineMakesFree : Obligations.OnlineMakesFree := by
  intro m w s released supervisor wellFormed
  split
  · rename_i isOffline
    exact answerWindow_checked_of_none released
      (firstFailing_onlineChecks_eq_none_iff.mpr ⟨supervisor, wellFormed, isOffline⟩)
  · rename_i online
    have fails : firstFailing (onlineChecks m w s) = some .alreadyOnline := by
      simp [onlineChecks, firstFailing_cons, notSupervisor, supervisor, wellFormed, online]
    exact answerWindow_checked_of_some released fails

/-! ### ACK_LOG -/

/-- Settles O39: a supervisor's ACK_LOG drops the oldest record, and is refused where there is none (R147). -/
theorem ackLogRemovesOldest : Obligations.AckLogRemovesOldest := by
  intro m s released supervisor
  refine ⟨fun l rest log => ?_, fun empty => ?_⟩
  · have passes : firstFailing (ackLogChecks m 0 s) = none := by
      simp [ackLogChecks, firstFailing_cons, notSupervisor, supervisor, log]
    have taken : exec (.ackLog m 0) s = .next (({ s.acknowledged with log := s.log.tail } : State).answer m
        (ResultRec.done 0)) := answerWindow_checked_of_none released passes
    rw [taken, log]
    rfl
  · have fails : firstFailing (ackLogChecks m 0 s) = some .logEmpty := by
      simp [ackLogChecks, firstFailing_cons, notSupervisor, supervisor, empty]
    exact answerWindow_checked_of_some released fails

end Sys2Proof.Machine
end

section
/-! PROOFS. OFFLINE and REVOKE, and the guard windows of an object brought online or taken offline (R12 to R17, R86 to
R88, R129). -/

namespace Sys2Proof.Machine

/-! ### Posting to the masters of a line -/

/-- Posting to the masters of a line's entries posts to each once for every entry of its (R15). -/
theorem State.postEach_map_master_mst (s : State) (line : List Entry) (n : Notice) (k : Master) :
    (s.postEach (line.map Entry.master) n).mst k =
      (line.filter fun e => e.master = k).foldl (fun r _ => r.post n) (s.mst k) := by
  induction line generalizing s with
  | nil => rfl
  | cons e rest ih =>
    rw [List.map_cons, State.postEach_cons, ih]
    by_cases own : e.master = k
    · subst own; simp
    · simp [own, State.post_mst_ne _ (Ne.symm own)]

/-! ### OFFLINE -/

/-- What OFFLINE posts to a master: REVOKED as a holder, WAIT_ENDED for each of its entries, WATCH_ENDED as a watcher
(R14 to R16). -/
theorem offline_mst (o : ObjNum) (s : State) (k : Master) :
    (offlineComplete o (offlineLine o (offlineHolders o s))).mst k =
      let held := if isMember (s.obj o).holders k then (s.mst k).post (.revoked o .offline) else s.mst k
      let waited := ((s.obj o).line.filter fun e => e.master = k).foldl
        (fun r _ => r.post (.waitEnded o .offline)) held
      if isMember (s.obj o).watchers k then waited.post (.watchEnded o) else waited := by
  have holders : (offlineHolders o s).mst k =
      if isMember (s.obj o).holders k then (s.mst k).post (.revoked o .offline) else s.mst k := by
    rw [offlineHolders, State.postEach_members_mst, State.modObj_mst]
  have line (u : State) : (offlineLine o u).mst k =
      ((u.obj o).line.filter fun e => e.master = k).foldl (fun r _ => r.post (.waitEnded o .offline)) (u.mst k) := by
    rw [offlineLine, State.postEach_map_master_mst]
    rfl
  have complete (u : State) : (offlineComplete o u).mst k =
      if isMember (u.obj o).watchers k then (u.mst k).post (.watchEnded o) else u.mst k := by
    rw [offlineComplete, State.postEach_members_mst, State.modObj_mst]
  have lineOf : ((offlineHolders o s).obj o).line = (s.obj o).line := by simp [offlineHolders]
  have watchersOf : ((offlineLine o (offlineHolders o s)).obj o).watchers = (s.obj o).watchers := by
    simp [offlineLine, offlineHolders]
  rw [complete, watchersOf, line, lineOf, holders]

theorem offline_poolFree (o : ObjNum) (s : State) :
    (offlineComplete o (offlineLine o (offlineHolders o s))).poolFree = s.poolFree + (s.obj o).line.length := by
  simp [offlineComplete, offlineLine, offlineHolders]

/-- An OFFLINE that passes its checks, taken (R13). -/
theorem exec_offline_of_online {m : Master} {w : Word} {s : State} (released : s.resetAsserted = false)
    (supervisor : (s.mst m).supervisor = true) (wellFormed : bitsOutside w objectMask = false)
    (online : (s.obj (objectField w)).state ≠ .offline) :
    exec (.offline m w) s = .next ((offlineComplete (objectField w) (offlineLine (objectField w)
      (offlineHolders (objectField w) s.acknowledged))).answer m (ResultRec.done (objectEcho w))) :=
  answerWindow_checked_of_none released
    (firstFailing_offlineChecks_eq_none_iff (s := s.acknowledged).mpr ⟨supervisor, wellFormed, online⟩)

/-- Settles O32: the three parts of OFFLINE together. -/
theorem offlineEndsEverything : Obligations.OfflineEndsEverything := by
  intro m w s released supervisor wellFormed online
  exact ⟨_, exec_offline_of_online released supervisor wellFormed online, offline_obj _ s.acknowledged,
    offline_only _ s.acknowledged, offline_poolFree _ s.acknowledged, offline_mst _ s.acknowledged,
    (offline_work _ s.acknowledged).answer m _⟩

/-! ### REVOKE -/

/-- The object and the masters as a REVOKE's handover finds them: emptied, each holder posted REVOKED (R87). -/
theorem revokeHolders_settles {o : ObjNum} {s : State} (settles : (s.obj o).settle ≠ 0) :
    (revokeHolders o s).obj o =
        { s.obj o with
          state := .settling, holders := 0, tenure := 0, yieldPending := none
          settleRemaining := some (s.obj o).settle, owed := Owed.none } ∧
      (revokeHolders o s).poolFree = s.poolFree ∧
      ∀ k, (revokeHolders o s).mst k =
        if isMember (s.obj o).holders k then (s.mst k).post (.revoked o .supervisor) else s.mst k := by
  have entered : revokeHolders o s = enterSettling o
      ((s.modObj o fun r => { r.endTenure with holders := 0 }).postEach (members (s.obj o).holders)
        (.revoked o .supervisor)) := by
    rw [revokeHolders, handover, if_pos (by simpa [ObjectRec.endTenure] using settles)]
  rw [entered]
  refine ⟨by simp [enterSettling, ObjectRec.endTenure], by simp [enterSettling], fun k => ?_⟩
  rw [enterSettling, State.modObj_mst, State.postEach_members_mst, State.modObj_mst]

/-- With settle 0 the handover goes on at step 2 (R40 to R46). -/
theorem revokeHolders_handsOver {o : ObjNum} {s : State} (goesOn : (s.obj o).settle = 0) :
    (revokeHolders o s).obj o =
        (s.obj o).handedOver (grantedEntries (s.obj o).line) (remainingEntries (s.obj o).line) ∧
      (revokeHolders o s).poolFree = s.poolFree + (grantedEntries (s.obj o).line).length ∧
      ∀ k, (revokeHolders o s).mst k =
        (if isMember (s.obj o).holders k then (s.mst k).post (.revoked o .supervisor) else s.mst k).handedOver o
          (s.obj o) (grantedEntries (s.obj o).line) (remainingEntries (s.obj o).line) k := by
  have entered : revokeHolders o s = handoverFromStep2 o
      ((s.modObj o fun r => { r.endTenure with holders := 0 }).postEach (members (s.obj o).holders)
        (.revoked o .supervisor)) := by
    rw [revokeHolders, handover, if_neg (by simpa [ObjectRec.endTenure] using goesOn)]
  obtain ⟨-, obj, pool, mst⟩ := handoverFromStep2_handedOver o
    ((s.modObj o fun r => { r.endTenure with holders := 0 }).postEach (members (s.obj o).holders)
      (.revoked o .supervisor)) (s.obj o) (by simp [ObjectRec.endTenure])
  rw [entered]
  refine ⟨obj, by simpa using pool, fun k => (mst k).trans ?_⟩
  rw [State.postEach_members_mst, State.modObj_mst]

@[simp] theorem ObjectRec.handedOver_revokeCount (r : ObjectRec) (batch left : List Entry) :
    (r.handedOver batch left).revokeCount = r.revokeCount := by
  cases batch <;> rfl

theorem revokeHolders_revokeCount (o : ObjNum) (s : State) :
    ((revokeHolders o s).obj o).revokeCount = (s.obj o).revokeCount := by
  by_cases settles : (s.obj o).settle = 0
  · rw [(revokeHolders_handsOver settles).1, ObjectRec.handedOver_revokeCount]
  · rw [(revokeHolders_settles settles).1]

/-- A REVOKE that passes its checks, taken (R86). -/
theorem exec_revoke_of_held {m : Master} {w : Word} {s : State} (released : s.resetAsserted = false)
    (supervisor : (s.mst m).supervisor = true) (wellFormed : bitsOutside w objectMask = false)
    (held : (s.obj (objectField w)).isHeld = true) :
    exec (.revoke m w) s = .next ((revokeHolders (objectField w) s.acknowledged).answer m
      (ResultRec.done (objectEcho w))) :=
  answerWindow_checked_of_none released
    (firstFailing_revokeChecks_eq_none_iff (s := s.acknowledged).mpr ⟨supervisor, wellFormed, held⟩)

/-- Settles O33: a REVOKE is a forced emptying, which enters SETTLING with settle non-zero and else is handed over. -/
theorem revokeEmptiesByForce : Obligations.RevokeEmptiesByForce := by
  intro m w s released supervisor wellFormed held
  have taken := exec_revoke_of_held released supervisor wellFormed held
  have settles := @revokeHolders_settles (objectField w) s.acknowledged
  have handsOver := @revokeHolders_handsOver (objectField w) s.acknowledged
  have count := revokeHolders_revokeCount (objectField w) s.acknowledged
  have only := revokeHolders_only (objectField w) s.acknowledged
  have work := revokeHolders_work (objectField w) s.acknowledged
  generalize revokeHolders (objectField w) s.acknowledged = u at taken settles handsOver count only work
  refine ⟨_, taken, settles, fun goesOn noLine => ?_, fun goesOn e rest line => ?_, count, only, work.answer m _⟩
  · obtain ⟨obj, pool, mst⟩ := handsOver goesOn
    rw [show (s.acknowledged.obj (objectField w)).line = [] from noLine] at pool mst
    exact ⟨obj.trans (ObjectRec.handedOver_of_no_line noLine), pool, mst⟩
  · obtain ⟨obj, pool, mst⟩ := handsOver goesOn
    obtain ⟨batch, granted⟩ := grantedEntries_cons e rest
    have sorted := batchOf_grantedEntries (e :: rest)
    rw [show (s.acknowledged.obj (objectField w)).line = e :: rest from line, granted] at obj pool mst
    rw [granted] at sorted
    have obj : (u.answer m (ResultRec.done (objectEcho w))).obj (objectField w) =
      (s.obj (objectField w)).handedOver (e :: batch) (remainingEntries (e :: rest)) := obj
    have holders := ObjectRec.isMember_handedOver_cons (s.obj (objectField w)) e batch (remainingEntries (e :: rest))
    refine ⟨?_, ?_, ?_, e :: batch, remainingEntries (e :: rest), sorted, fun k => ?_, obj, pool, mst⟩
    · rw [obj, ObjectRec.handedOver_tenure]
    · rw [obj]; exact (holders _).mpr ⟨e, List.mem_cons_self, rfl⟩
    · rw [obj, ObjectRec.handedOver_cons_state]
    · rw [obj]; exact holders k

/-! ### The windows of an object brought online or taken offline -/

/-- A window is active when enabled, its object not OFFLINE and its range not empty (R129). -/
theorem State.windowActive_iff (s : State) (g : GuardWindow) :
    s.windowActive g = true ↔
      g.enable = true ∧ (s.obj g.object).state ≠ .offline ∧ g.base.toNat ≤ g.limit.toNat := by
  simp [State.windowActive, BitVec.le_def, and_assoc]

/-- With its object not OFFLINE a window is active by its own fields (R129). -/
theorem State.windowActive_of_online {s : State} {g : GuardWindow} (online : (s.obj g.object).state ≠ .offline) :
    s.windowActive g = (g.enable && decide (g.base.toNat ≤ g.limit.toNat)) := by
  rw [Bool.eq_iff_iff, windowActive_iff]
  simp [online]

theorem State.windowActive_of_offline {s : State} {g : GuardWindow} (isOffline : (s.obj g.object).state = .offline) :
    s.windowActive g = false := by
  rw [Bool.eq_false_iff, ne_eq, windowActive_iff]
  exact fun active => active.2.1 isOffline

/-- Settles O35: of the three conditions, ONLINE and OFFLINE change that of the object's state alone; at reset no window
is enabled. -/
theorem windowActiveRule : Obligations.WindowActiveRule := by
  refine ⟨State.windowActive_iff, fun m w s t released supervisor wellFormed =>
    ⟨fun isOffline answered => ?_, fun online answered => ?_⟩, fun i => ?_⟩
  · rw [onlineMakesFree m w s released supervisor wellFormed, if_pos isOffline] at answered
    cases answered
    refine ⟨rfl, fun i named => ?_⟩
    refine State.windowActive_of_online (g := s.win i) ?_
    rw [State.answer_obj, named, State.modObj_obj_self]
    exact fun isOffline => by cases isOffline
  · rw [exec_offline_of_online released supervisor wellFormed online] at answered
    cases answered
    have windows := (offline_work (objectField w) s.acknowledged).windows
    have obj := offline_obj (objectField w) s.acknowledged
    refine ⟨windows, fun i named => ?_⟩
    have stands : ((offlineComplete (objectField w) (offlineLine (objectField w)
        (offlineHolders (objectField w) s.acknowledged))).answer m (ResultRec.done (objectEcho w))).win i = s.win i := by
      rw [State.answer_win, State.win, windows]; rfl
    refine State.windowActive_of_offline ?_
    rw [stands, named, State.answer_obj, obj]
  · rw [State.reset_win, Bool.eq_false_iff, ne_eq, State.windowActive_iff]
    rintro ⟨enabled, -, -⟩
    cases enabled

end Sys2Proof.Machine
end

section
/-! PROOFS. A master removed from every object: RESET_SELF, CLEAR_MASTER and BAR (R95 to R97, R102, R106 to R108). -/

namespace Sys2Proof.Machine

/-! ### The removal, as a command leaves it -/

/-- The removal of a master is read from the object records and the pool alone. -/
theorem State.WithoutMaster.congr {n : Master} {forced : Bool} {s s' t t' : State} {batch left : ObjNum → List Entry}
    (w : s.WithoutMaster n forced t batch left) (before : s'.objects = s.objects) (poolBefore : s'.poolFree = s.poolFree)
    (after : t'.objects = t.objects) (poolAfter : t'.poolFree = t.poolFree) :
    s'.WithoutMaster n forced t' batch left := by
  have objBefore (o : ObjNum) : s'.obj o = s.obj o := by unfold State.obj; rw [before]
  have objAfter (o : ObjNum) : t'.obj o = t.obj o := by unfold State.obj; rw [after]
  obtain ⟨heldWithOthers, settles, handsOver, notHeld, pool⟩ := w
  refine ⟨?_, ?_, ?_, ?_, ?_⟩
  · simpa only [objBefore, objAfter] using heldWithOthers
  · simpa only [objBefore, objAfter] using settles
  · simpa only [objBefore, objAfter] using handsOver
  · simpa only [objBefore, objAfter] using notHeld
  · rw [poolAfter, poolBefore, State.entriesInUse_congr after, State.entriesInUse_congr before, pool]

/-- An object that the master neither holds nor waits on nor watches stands. -/
theorem State.WithoutMaster.stranger {n : Master} {forced : Bool} {s t : State} {batch left : ObjNum → List Entry}
    (w : s.WithoutMaster n forced t batch left) {o : ObjNum} (notHolder : isMember (s.obj o).holders n = false)
    (notWaiting : s.isWaiting n o = false) (notWatching : isMember (s.obj o).watchers n = false) :
    t.obj o = s.obj o := by
  have line : ((s.obj o).line.filter fun e => e.master ≠ n) = (s.obj o).line := by
    rw [List.filter_eq_self]
    intro e mem
    have := List.any_eq_false.mp notWaiting e mem
    simpa using this
  rw [w.notHeld o notHolder, line, ObjectRec.without, removeMember_of_not_member notHolder,
    removeMember_of_not_member notWatching]

/-- No object that the master held enters SETTLING by a voluntary emptying (R40). -/
theorem State.WithoutMaster.not_settling {n : Master} {s t : State} {batch left : ObjNum → List Entry}
    (w : s.WithoutMaster n false t batch left) {o : ObjNum} (holder : isMember (s.obj o).holders n = true)
    (before : (s.obj o).state ≠ .settling) : (t.obj o).state ≠ .settling := by
  cases alone : (s.obj o).heldAloneBy n with
  | false => rw [w.heldWithOthers o holder alone]; exact before
  | true =>
    have goesOn : (s.obj o).handsOverWithout n false = true := by simp [ObjectRec.handsOverWithout, alone]
    rw [(w.handsOver o goesOn).2]
    exact ObjectRec.handedOver_state_ne_settling _ _ _

/-- The count of a clearing is that of the objects the master held (R106). -/
theorem clearingCount_eq (m : Master) (s : State) :
    clearingCount m s = allObjects.countP fun o => isMember (s.obj o).holders m := by
  rw [clearingCount, State.heldBy, List.countP_eq_length_filter]

/-! ### RESET_SELF and CLEAR_MASTER -/

/-- Settles O21: RESET_SELF is the clearing of its writer. -/
theorem resetSelfClearsMaster : Obligations.ResetSelfClearsMaster := by
  intro m s released apart
  have taken : exec (.resetSelf m 0) s = .next ((clearing m s.acknowledged).answer m
      (ResultRec.doneCount 0 (clearingCount m s.acknowledged))) := by
    rw [exec_resetSelf m 0 released, if_neg (by decide)]
  obtain ⟨⟨objects, others⟩, named⟩ := clearing_cleared m s.acknowledged apart
  have work := (clearing_work m s.acknowledged).answer m (ResultRec.doneCount 0 (clearingCount m s.acknowledged))
  rw [clearingCount_eq] at taken work
  generalize clearing m s.acknowledged = u at taken objects work others named
  have removed (answer : ResultRec) := objects.congr (s' := s) rfl rfl (t' := u.answer m answer) rfl rfl
  exact ⟨_, taken, (removed _).holdsNothing apart, named, fun _ => (removed _).not_settling,
    fun _ => (removed _).stranger, ⟨_, _, removed _, others⟩, (removed _).pool, work⟩

/-- Settles O22: CLEAR_MASTER is the clearing of the named master, which is then posted CLEARED to its empty queue. -/
theorem clearMasterClearsNamed : Obligations.ClearMasterClearsNamed := by
  intro m w s released supervisor wellFormed apart
  have passes : firstFailing [(notSupervisor m s.acknowledged, .notPrivileged), (bitsOutside w clearMask, .badOperand)] =
      none := firstFailing_supervisor_eq_none_iff.mpr ⟨supervisor, wellFormed⟩
  have taken : exec (.clearMaster m w) s = .next
      (((clearing (masterField w) s.acknowledged).post (masterField w) (.cleared m)).answer m
        (ResultRec.doneCount (masterEcho w) (clearingCount (masterField w) s.acknowledged))) :=
    calc exec (.clearMaster m w) s = answerWindow s (clearMaster m w) := rfl
      _ = .next (clearMaster m w s.acknowledged) := answerWindow_of_released released _
      _ = _ := congrArg _ (State.checked_of_none passes _)
  obtain ⟨⟨objects, others⟩, named⟩ := clearing_cleared (masterField w) s.acknowledged apart
  have work := ((clearing_work (masterField w) s.acknowledged).trans (State.post_work _ (masterField w) (.cleared m))
    ).answer m (ResultRec.doneCount (masterEcho w) (clearingCount (masterField w) s.acknowledged))
  rw [clearingCount_eq] at taken work
  generalize clearing (masterField w) s.acknowledged = u at taken objects work others named
  have removed (answer : ResultRec) := objects.congr (s' := s) rfl rfl
    (t' := (u.post (masterField w) (.cleared m)).answer m answer) rfl rfl
  refine ⟨_, taken, (removed _).holdsNothing apart, ?_, fun _ => (removed _).not_settling,
    fun _ => (removed _).stranger,
    ⟨_, _, removed _, fun k other => (State.post_mst_ne u other _).trans (others k other)⟩, (removed _).pool, work⟩
  rw [State.answer_mst, State.post_mst_self, named]
  rfl

/-! ### BAR -/

/-- The record of a master that BAR bars, before the cascade posts to it (R102). -/
def MasterRec.barred (r : MasterRec) : MasterRec :=
  { r with score := if r.score < barScore then barScore else r.score, standing := .barred }

theorem MasterRec.barred_score_toNat (r : MasterRec) : r.barred.score.toNat = max 192 r.score.toNat := by
  unfold barred barScore
  dsimp only
  split <;> bv_omega

theorem barMaster_of_barred {n : Master} {s : State} (barred : (s.mst n).standing = .barred) : barMaster n s = s := by
  rw [barMaster, if_pos (beq_iff_eq.mpr barred)]

theorem barMaster_of_not_barred {n : Master} {s : State} (notBarred : (s.mst n).standing ≠ .barred) :
    barMaster n s = cascade n (s.modMst n MasterRec.barred) := by
  rw [barMaster, if_neg (by simpa using notBarred)]
  rfl

/-- The queue and the next sequence after a posting are read from those before it (R113, R114). -/
theorem MasterRec.post_queue_congr {a b : MasterRec} (queue : a.queue = b.queue) (seq : a.nextSeq = b.nextSeq)
    (n : Notice) : (a.post n).queue = (b.post n).queue ∧ (a.post n).nextSeq = (b.post n).nextSeq := by
  unfold post
  rw [queue, seq]
  split <;> exact ⟨rfl, rfl⟩

/-- The cascade of a master that holds nothing posts its two notices alone (R95). -/
theorem State.CutOff.mst_of_holdsNothing {n : Master} {s t : State} {before : Master → MasterRec}
    {batch left : ObjNum → List Entry} (c : s.CutOff n before t batch left) (nothing : s.HoldsNothing n) (k : Master) :
    t.mst k =
      let named := if k = n then (before k).post (.standing .barred (before k).score) else before k
      if (before k).supervisor then named.post (.faultBarred n) else named := by
  have notHeld (o : ObjNum) : isMember (s.obj o).holders n = false := (nothing o).1
  have notWaiting (o : ObjNum) : s.isWaiting n o = false := (nothing o).2.1
  by_cases own : k = n
  · subst own
    rw [c.named]
    simp [notHeld, notWaiting]
  · rw [c.others k own]
    simp [own, MasterRec.handoversWithout, ObjectRec.handsOverWithout, ObjectRec.heldAloneBy, notHeld]

/-- The records of a cut-off are read from the object records, the pool and the master records (R95 to R97). -/
theorem State.CutOff.congr {n : Master} {s s' t t' : State} {before : Master → MasterRec}
    {batch left : ObjNum → List Entry} (c : s.CutOff n before t batch left) (objects : s'.objects = s.objects)
    (pool : s'.poolFree = s.poolFree) (objects' : t'.objects = t.objects) (pool' : t'.poolFree = t.poolFree)
    (masters' : t'.masters = t.masters) : s'.CutOff n before t' batch left := by
  have obj (o : ObjNum) : s'.obj o = s.obj o := by unfold State.obj; rw [objects]
  have mst (k : Master) : t'.mst k = t.mst k := by unfold State.mst; rw [masters']
  refine ⟨c.objects.congr objects pool objects' pool', ?_, fun k other => ?_⟩
  · rw [mst, c.named]
    simp only [obj, State.isWaiting]
  · rw [mst, c.others k other]
    simp only [MasterRec.handoversWithout, obj]

/-- What BAR makes of a master that is not BARRED: its record is barred and the cascade of it runs (R102). -/
theorem barMaster_cutOff {n : Master} {s : State} (notBarred : (s.mst n).standing ≠ .barred)
    (apart : s.NoHolderWaits) :
    (∀ k, (if k = n then (s.mst k).barred else s.mst k).SameConduct ((barMaster n s).mst k)) ∧
      s.CutOff n (fun k =>
          if k = n then { s.mst k with score := ((barMaster n s).mst k).score, standing := .barred } else s.mst k)
        (barMaster n s) (fun o => grantedEntries (s.obj o).line) (fun o => remainingEntries (s.obj o).line) := by
  have cut := cascade_cutOff n (s.modMst n MasterRec.barred) apart
  have work := cascade_work n (s.modMst n MasterRec.barred)
  rw [← barMaster_of_not_barred notBarred] at cut work
  have records (k : Master) : (s.modMst n MasterRec.barred).mst k = if k = n then (s.mst k).barred else s.mst k := by
    rw [State.modMst_mst]
    by_cases own : k = n
    · rw [if_pos own, if_pos own, own]
    · rw [if_neg own, if_neg own]
  obtain ⟨score, -⟩ : ((barMaster n s).mst n).score = _ ∧ _ := work.conduct n
  rw [records n, if_pos rfl] at score
  have before : (s.modMst n MasterRec.barred).mst = fun k =>
      if k = n then { s.mst k with score := ((barMaster n s).mst k).score, standing := .barred } else s.mst k := by
    funext k
    rw [records k]
    by_cases own : k = n
    · rw [if_pos own, if_pos own, own, score]
      rfl
    · rw [if_neg own, if_neg own]
  rw [before] at cut
  exact ⟨fun k => records k ▸ work.conduct k,
    cut.congr (State.modMst_objects _ _ _).symm (State.modMst_poolFree _ _ _).symm rfl rfl rfl⟩

/-- BAR is work of the two tables' records alone: the devices stand. -/
theorem barMaster_devices (n : Master) (s : State) :
    (barMaster n s).ports = s.ports ∧ s.SameDevices (barMaster n s) := by
  by_cases barred : (s.mst n).standing = .barred
  · rw [barMaster_of_barred barred]
    exact ⟨rfl, (State.ObjectWork.refl s).sameDevices⟩
  · rw [barMaster_of_not_barred barred]
    have work := cascade_work n (s.modMst n MasterRec.barred)
    exact ⟨work.ports, work.windows, work.log, work.timeBase, work.resetAsserted, work.choices, work.pending⟩

/-- A BAR that passes its checks, taken (R100, R102). -/
theorem exec_bar_of_admitted {m : Master} {w : Word} {s : State} (released : s.resetAsserted = false)
    (supervisor : (s.mst m).supervisor = true) (wellFormed : bitsOutside w standingMask = false)
    (isBar : standingAction w = actionBar) :
    exec (.bar m w) s =
      .next ((barMaster (masterField w) s.acknowledged).answer m (ResultRec.done (masterEcho w))) := by
  have fits : standingMalformed w = false := by simp [standingMalformed, wellFormed, isBar]
  have passes : firstFailing [(notSupervisor m s.acknowledged, .notPrivileged), (standingMalformed w, .badOperand)] =
      none := firstFailing_supervisor_eq_none_iff.mpr ⟨supervisor, fits⟩
  have bars : standingAdmitted w s.acknowledged = barMaster (masterField w) s.acknowledged := by
    rw [standingAdmitted, if_neg (by rw [isBar]; decide)]
  calc exec (.bar m w) s = answerWindow s (setStanding m w) := rfl
    _ = .next (setStanding m w s.acknowledged) := answerWindow_of_released released _
    _ = .next ((standingAdmitted w s.acknowledged).answer m (ResultRec.done (masterEcho w))) :=
      congrArg _ (State.checked_of_none passes _)
    _ = _ := by rw [bars]

/-- Settles O25: nothing for a master BARRED already; else its score rises to 192, its standing is BARRED and the cascade
runs. -/
theorem barCutsMasterOff : Obligations.BarCutsMasterOff := by
  intro m w s released supervisor wellFormed isBar
  have taken := exec_bar_of_admitted released supervisor wellFormed isBar
  refine ⟨fun barred => ?_, fun notBarred apart => ?_⟩
  · rw [taken, barMaster_of_barred (s := s.acknowledged) barred]
    rfl
  obtain ⟨conduct, cut⟩ := barMaster_cutOff (s := s.acknowledged) notBarred apart
  obtain ⟨ports, devices⟩ := barMaster_devices (masterField w) s.acknowledged
  generalize barMaster (masterField w) s.acknowledged = u at taken conduct cut ports devices
  have cut := cut.congr (s' := s) rfl rfl (t' := u.answer m (ResultRec.done (masterEcho w))) rfl rfl rfl
  obtain ⟨score, standing, -⟩ : (u.mst (masterField w)).score = _ ∧ (u.mst (masterField w)).standing = _ ∧ _ :=
    conduct (masterField w)
  rw [if_pos rfl] at score standing
  refine ⟨_, taken, cut.objects.holdsNothing apart, standing, ?_, fun k other => ?_, fun _ => cut.objects.stranger,
    fun nothing k => ?_, ⟨_, _, cut⟩, cut.objects.pool, State.answer_ports_congr (s := s) ports m _, ?_⟩
  · rw [State.answer_mst, score, MasterRec.barred_score_toNat]
    rfl
  · have others := conduct k
    rw [if_neg other] at others
    exact others
  · refine (congrArg MasterRec.queue (cut.mst_of_holdsNothing nothing k)).trans ?_
    dsimp only
    by_cases own : k = masterField w
    · simp only [if_pos own, State.answer_mst, State.acknowledged_mst]
      obtain ⟨queue, seq⟩ := MasterRec.post_queue_congr
        (a := { s.mst k with score := (u.mst k).score, standing := .barred }) (b := s.mst k) rfl rfl
        (.standing .barred (u.mst k).score)
      split
      · exact (MasterRec.post_queue_congr queue seq _).1
      · exact queue
    · simp only [if_neg own, State.acknowledged_mst]
  · exact ⟨devices.windows, devices.log, devices.timeBase, devices.resetAsserted, devices.choices, devices.pending⟩

end Sys2Proof.Machine
end

section
/-! PROOFS. Guard windows at work: what each check answers, and a violation denied, recorded and charged (R129 to R136,
R141 to R145, Table 7-2). -/

namespace Sys2Proof.Machine

/-! ### The check of one window -/

/-- An object FREE, SETTLING or OFFLINE has no holder (Table 1-2). -/
theorem ObjectRec.Row.not_holder {r : ObjectRec} (row : r.Row) (h : r.state = .free ∨ r.state = .settling)
    (m : Master) : isMember r.holders m = false := by
  unfold ObjectRec.Row at row
  obtain state | state := h
  all_goals
    rw [state] at row
    obtain ⟨holders, -⟩ := row
    rw [holders]
    exact isMember_zero m

/-- The granule of a word address is the address divided by 1024 (R131). -/
theorem granuleOf_toNat (addr : WordAddr) : (granuleOf addr).toNat = addr.toNat / 1024 := by
  have := addr.isLt
  rw [granuleOf, BitVec.extractLsb'_toNat, Nat.shiftRight_eq_div_pow, Nat.mod_eq_of_lt (by omega)]

/-- Settles O36: each answer is read from the holder set and the state, and a master that is no holder has no hold. -/
theorem checkResultsTable : Obligations.CheckResultsTable := by
  refine ⟨fun r m row _ => ⟨rfl, fun exclusive holder => ?_, fun shared holder => ?_, fun none => ?_⟩,
    fun g addr => ?_⟩
  · exact ⟨by simp [checkAccess, holder, exclusive], by simp [checkAccess, holder],
      by simp [checkAccess, holder, exclusive]⟩
  · exact ⟨by simp [checkAccess, holder, shared], by simp [checkAccess, holder],
      by simp [checkAccess, holder, shared]⟩
  · have stranger : isMember r.holders m = false := by
      obtain free | settling | stranger := none
      · exact row.not_holder (.inl free) m
      · exact row.not_holder (.inr settling) m
      · exact stranger
    exact ⟨by simp [checkAccess, stranger], by simp [checkAccess, stranger], by simp [checkAccess, stranger]⟩
  · rw [GuardWindow.contains, Bool.and_eq_true, decide_eq_true_iff, decide_eq_true_iff, BitVec.le_def, BitVec.le_def,
      granuleOf_toNat]

/-! ### The failing windows of an access -/

/-- Window `i` is active, contains the access and fails it (R131, R135). -/
def State.violates (s : State) (m : Master) (addr : WordAddr) (dir : Direction) (i : WindowNum) : Bool :=
  s.windowActive (s.win i) && (s.win i).contains (granuleOf addr) &&
    (checkAccess (s.win i).kind dir m (s.obj (s.win i).object)).isSome

theorem State.failsAt_isSome (s : State) (m : Master) (addr : WordAddr) (dir : Direction) (i : WindowNum) :
    (s.failsAt m addr dir i).isSome = s.violates m addr dir i := by
  unfold failsAt violates
  dsimp only
  split
  · rename_i applies
    rw [applies, Bool.true_and, Option.isSome_map]
  · rename_i passes
    rw [Bool.eq_false_iff.mpr passes]
    rfl

theorem State.failsAt_of_violates {s : State} {m : Master} {addr : WordAddr} {dir : Direction} {i : WindowNum}
    {c : ViolationCause} (violates : s.violates m addr dir i = true)
    (cause : checkAccess (s.win i).kind dir m (s.obj (s.win i).object) = some c) :
    s.failsAt m addr dir i = some { index := i, window := s.win i, cause := c } := by
  have applies : (s.windowActive (s.win i) && (s.win i).contains (granuleOf addr)) = true :=
    (Bool.and_eq_true _ _ ▸ violates).1
  unfold failsAt
  dsimp only
  rw [if_pos applies, cause]
  rfl

/-- The reported window is the lowest-numbered one that fails (R135). -/
theorem State.failedWindows_of_first {s : State} {m : Master} {addr : WordAddr} {dir : Direction} {i : WindowNum}
    {c : ViolationCause} (violates : s.violates m addr dir i = true)
    (lower : ∀ j, j < i → s.violates m addr dir j = false)
    (cause : checkAccess (s.win i).kind dir m (s.obj (s.win i).object) = some c) :
    ∃ rest, s.failedWindows m addr dir = { index := i, window := s.win i, cause := c } :: rest := by
  obtain ⟨before, after, split⟩ := List.append_of_mem (mem_allWindows i)
  have ascending : (before ++ i :: after).Pairwise (· < ·) := split ▸ List.pairwise_lt_finRange 16
  have none_before : before.filterMap (s.failsAt m addr dir) = [] := by
    rw [List.filterMap_eq_nil_iff]
    intro j mem
    have passes := lower j ((List.pairwise_append.mp ascending).2.2 j mem i List.mem_cons_self)
    rw [← failsAt_isSome] at passes
    simpa using passes
  refine ⟨after.filterMap (s.failsAt m addr dir), ?_⟩
  rw [failedWindows, split, List.filterMap_append, none_before, List.nil_append,
    List.filterMap_cons_some (failsAt_of_violates violates cause)]

/-- An access is denied when a failing window has action DENY (R136). -/
theorem State.denies_iff (s : State) (m : Master) (addr : WordAddr) (dir : Direction) :
    ((s.failedWindows m addr dir).any fun x => x.window.action == .deny) = true ↔
      ∃ j, s.violates m addr dir j = true ∧ (s.win j).action = .deny := by
  rw [List.any_eq_true]
  constructor
  · rintro ⟨f, mem, deny⟩
    obtain ⟨j, -, fails⟩ := List.mem_filterMap.mp mem
    obtain ⟨-, -, -, window, -⟩ := State.failsAt_eq_some fails
    refine ⟨j, by rw [← failsAt_isSome, fails]; rfl, ?_⟩
    rw [← window]
    simpa using deny
  · rintro ⟨j, violates, deny⟩
    obtain ⟨f, fails⟩ := Option.isSome_iff_exists.mp ((s.failsAt_isSome m addr dir j).trans violates)
    obtain ⟨-, -, -, window, -⟩ := State.failsAt_eq_some fails
    exact ⟨f, List.mem_filterMap.mpr ⟨j, mem_allWindows j, fails⟩, by rw [window]; simpa using deny⟩

/-! ### The record -/

/-- A full log counts the violation in its newest record (R145). -/
theorem suppressNewest_append (older : List LogRecord) (newest : LogRecord) :
    suppressNewest (older ++ [newest]) =
      older ++ [{ newest with suppressed := saturatingRise8 newest.suppressed }] := by
  induction older with
  | nil => rfl
  | cons l rest ih =>
    have notLast : suppressNewest (l :: (rest ++ [newest])) = l :: suppressNewest (rest ++ [newest]) := by
      cases rest <;> rfl
    rw [List.cons_append, notLast, ih, List.cons_append]

/-- Offering a record changes the log, and by LOG_PENDING the supervisors' queues if the log was empty (R144). -/
theorem offerRecord_mst (l : LogRecord) (s : State) (k : Master) :
    (offerRecord l s).mst k =
      if s.log = [] ∧ (s.mst k).supervisor = true then (s.mst k).post .logPending else s.mst k := by
  rw [offerRecord_eq]
  by_cases empty : s.log = []
  · rw [if_pos (by simp [empty]), State.postSupervisors_mst]
    simp only [empty, true_and]
    rfl
  · rw [if_neg (by simpa using empty), if_neg (fun both => empty both.1)]
    rfl

theorem offerRecord_objects (l : LogRecord) (s : State) :
    (offerRecord l s).objects = s.objects ∧ (offerRecord l s).poolFree = s.poolFree := by
  rw [offerRecord_eq]
  split
  · exact ⟨State.postEach_objects _ _ _, State.postEach_poolFree _ _ _⟩
  · exact ⟨rfl, rfl⟩

theorem offerRecord_tableWork (l : LogRecord) (s : State) :
    ({ s with log := logWith l s.log } : State).TableWork (offerRecord l s) := by
  rw [offerRecord_eq]
  split
  · exact State.postEach_tableWork _ _ _
  · exact .refl _

/-! ### The charge -/

/-- A change of `m`'s score to `score`, its standing then `now`, takes `s` to `t`: short of a barring the object records
stand and STANDING is posted to `m` if its standing changed; a barring is the cut-off of `m` (R92, R95). -/
structure State.Charged (m : Master) (score : BitVec 8) (now : Standing) (s t : State) : Prop where
  scored : (t.mst m).score = score
  stands : (t.mst m).standing = now
  others : ∀ k, k ≠ m → (s.mst k).SameConduct (t.mst k)
  short : now ≠ .barred ∨ (s.mst m).standing = .barred → t.objects = s.objects ∧ t.poolFree = s.poolFree ∧
    ∀ k, t.mst k =
      let before := if k = m then { s.mst k with score := score, standing := now } else s.mst k
      if k = m ∧ (s.mst m).standing ≠ now then before.post (.standing now score) else before
  cut : now = .barred → (s.mst m).standing ≠ .barred → s.NoHolderWaits → ∃ batch left,
    s.CutOff m (fun k => if k = m then { s.mst k with score := score, standing := now } else s.mst k) t batch left

theorem changeScore_charged (m : Master) (score : BitVec 8) (s : State) :
    State.Charged m score (recomputeStanding (s.mst m).standing score) s (changeScore m score s) := by
  have records (k : Master) : (s.modMst m fun r => r.withScore score).mst k =
      if k = m then { s.mst k with score := score, standing := recomputeStanding (s.mst m).standing score }
      else s.mst k := by
    rw [State.modMst_mst]
    by_cases own : k = m
    · rw [if_pos own, if_pos own, own, MasterRec.withScore]
    · rw [if_neg own, if_neg own]
  have stays : (s.mst m).standing = .barred → recomputeStanding (s.mst m).standing score = .barred := fun barred => by
    rw [barred]; rfl
  have courses := changeScore_cases m score s
  dsimp only at courses
  generalize recomputeStanding (s.mst m).standing score = now at records stays courses
  have objects : (s.modMst m fun r => r.withScore score).objects = s.objects := rfl
  have pool : (s.modMst m fun r => r.withScore score).poolFree = s.poolFree := rfl
  have before : (s.modMst m fun r => r.withScore score).mst = fun k =>
    if k = m then { s.mst k with score := score, standing := now } else s.mst k := funext records
  have kept (k : Master) (other : k ≠ m) : (s.mst k).SameConduct ((s.modMst m fun r => r.withScore score).mst k) := by
    rw [records k, if_neg other]; exact .refl _
  have named := records m
  rw [if_pos rfl] at named
  obtain ⟨same, course⟩ | ⟨changed, barred, course⟩ | ⟨changed, notBarred, course⟩ := courses
  · rw [course]
    refine ⟨by rw [named], by rw [named], kept, fun _ => ⟨objects, pool, fun k => ?_⟩,
      fun barred notBarred => absurd (same.symm.trans barred) notBarred⟩
    dsimp only
    rw [if_neg (fun both : k = m ∧ (s.mst m).standing ≠ now => both.2 same.symm), records k]
  · rw [course]
    have work := cascade_work m (s.modMst m fun r => r.withScore score)
    obtain ⟨scored, stands, -⟩ : ((cascade m _).mst m).score = _ ∧ ((cascade m _).mst m).standing = _ ∧ _ :=
      work.conduct m
    rw [named] at scored stands
    refine ⟨scored, stands, fun k other => (kept k other).trans (work.conduct k), fun short => ?_, fun _ _ apart => ?_⟩
    · obtain notBarred | wasBarred := short
      · exact absurd barred notBarred
      · exact absurd (barred.trans wasBarred.symm) changed
    · have cut := cascade_cutOff m (s.modMst m fun r => r.withScore score) apart
      rw [before] at cut
      exact ⟨_, _, cut.congr objects.symm pool.symm rfl rfl rfl⟩
  · rw [course]
    refine ⟨by rw [State.post_mst_self, named, MasterRec.post_score], by rw [State.post_mst_self, named,
      MasterRec.post_standing], fun k other => ?_, fun _ => ⟨objects, pool, fun k => ?_⟩,
      fun barred => absurd barred notBarred⟩
    · rw [State.post_mst_ne _ other]; exact kept k other
    · dsimp only
      rw [State.post_mst]
      by_cases own : k = m
      · subst own
        rw [if_pos rfl, if_pos ⟨rfl, Ne.symm changed⟩, if_pos rfl, named]
      · rw [if_neg own, if_neg (fun both => own both.1), records k]

/-! ### A violation -/

/-- What a violation does, in two parts: its record is offered to the log, and then its master is charged (R136, R143 to
R145). `v` is the part between the two. -/
theorem observe_of_violation {m : Master} {addr : WordAddr} {dir : Direction} {s : State} {f : FailedWindow}
    {rest : List FailedWindow} (failed : s.failedWindows m addr dir = f :: rest) :
    ∃ v : State, v.objects = s.objects ∧ v.poolFree = s.poolFree ∧
      (∀ k, v.mst k = if s.log = [] ∧ (s.mst k).supervisor = true then (s.mst k).post .logPending else s.mst k) ∧
      State.Charged m (raiseScore (s.mst m).score violationCharge)
        (recomputeStanding (s.mst m).standing (raiseScore (s.mst m).score violationCharge)) v (observe m addr dir s) ∧
      ({ s with
          deny := (f :: rest).any fun x => x.window.action == .deny
          log := logWith (violationRecord m addr dir f s) s.log } : State).TableWork (observe m addr dir s) := by
  rw [observe_of_cons failed]
  dsimp only
  have mst := offerRecord_mst
    (violationRecord m addr dir f { s with deny := (f :: rest).any fun x => x.window.action == .deny })
    { s with deny := (f :: rest).any fun x => x.window.action == .deny }
  obtain ⟨objects, pool⟩ := offerRecord_objects
    (violationRecord m addr dir f { s with deny := (f :: rest).any fun x => x.window.action == .deny })
    { s with deny := (f :: rest).any fun x => x.window.action == .deny }
  have work := offerRecord_tableWork
    (violationRecord m addr dir f { s with deny := (f :: rest).any fun x => x.window.action == .deny })
    { s with deny := (f :: rest).any fun x => x.window.action == .deny }
  generalize offerRecord _ _ = v at mst objects pool work
  have named : (v.mst m).score = (s.mst m).score ∧ (v.mst m).standing = (s.mst m).standing := by
    rw [mst]
    split
    · exact ⟨MasterRec.post_score _ _, MasterRec.post_standing _ _⟩
    · exact ⟨rfl, rfl⟩
  have charged := changeScore_charged m (raiseScore (v.mst m).score violationCharge) v
  have charge := changeScore_tableWork m (raiseScore (v.mst m).score violationCharge) v
  rw [named.1] at charge charged ⊢
  rw [named.2] at charged
  exact ⟨v, objects, pool, mst, charged, work.trans charge⟩

/-- Settles O38: the access is denied if a failing window says so, its record is offered to the log for the first of
them, and its master is charged once. -/
theorem violationDenyRecordCharge : Obligations.ViolationDenyRecordCharge := by
  intro m addr dir s i c
  dsimp only
  intro released violates lower cause
  obtain ⟨rest, failed⟩ := State.failedWindows_of_first (s := s.deasserted) (m := m) (addr := addr) (dir := dir)
    violates lower cause
  have denies := s.deasserted.denies_iff m addr dir
  have taken : exec (.observation m addr dir) s = .next (observe m addr dir s.deasserted) :=
    if_neg (by simp [released])
  obtain ⟨v, objects, pool, mst, charged, work⟩ := observe_of_violation failed
  rw [failed] at denies
  have now : recomputeStanding (s.mst m).standing (raiseScore (s.mst m).score violationCharge) =
      if (s.mst m).standing = .barred then .barred
      else standingOf (BitVec.ofNat 8 (min 255 ((s.mst m).score.toNat + 6))) := by
    unfold recomputeStanding
    simp only [beq_iff_eq]
    rfl
  have score := raiseScore_toNat (s.mst m).score violationCharge
  have spelled : BitVec.ofNat 8 (min 255 ((s.mst m).score.toNat + 6)) = raiseScore (s.mst m).score violationCharge := rfl
  simp only [State.deasserted_mst, now] at charged
  simp only [spelled] at charged ⊢
  generalize raiseScore (s.mst m).score violationCharge = raised at charged score ⊢
  generalize (if (s.mst m).standing = .barred then Standing.barred else standingOf raised) = standing at charged ⊢
  generalize observe m addr dir s.deasserted = t at taken charged work
  have standingBefore : (v.mst m).standing = (s.mst m).standing := by
    rw [mst]; split
    · exact MasterRec.post_standing _ _
    · rfl
  refine ⟨t, taken, work.bus.ack, ?_, fun room => ?_, fun older newest full log => ?_, ?_, charged.stands,
    fun k other => ?_, fun short => ?_, ⟨fun short k => ?_, fun barred notBarred apart => ?_⟩, work.windows,
    work.timeBase, work.bus.ports, work.bus.pending⟩
  · rw [work.bus.deny]; exact denies
  · rw [work.log]
    exact if_pos room
  · rw [work.log]
    refine (if_neg (Nat.not_lt.mpr full)).trans ?_
    rw [State.deasserted_log, log, suppressNewest_append]
    simp only [saturatingRise8, beq_iff_eq]
  · rw [charged.scored, score]; rfl
  · have posted : (s.mst k).SameConduct (v.mst k) := by
      rw [mst]; split
      · exact MasterRec.sameConduct_post _ _
      · exact .refl _
    exact posted.trans (charged.others k other)
  · rw [← standingBefore] at short
    obtain ⟨same, samePool, -⟩ := charged.short short
    exact ⟨same.trans objects, samePool.trans pool⟩
  · rw [← standingBefore] at short
    obtain ⟨-, -, records⟩ := charged.short short
    rw [records k, standingBefore, mst k]
    rfl
  · rw [← standingBefore] at notBarred
    have stillApart : v.NoHolderWaits := fun o => by unfold State.obj; rw [objects]; exact apart o
    obtain ⟨batch, left, cut⟩ := charged.cut barred notBarred stillApart
    have before : v.mst = fun k =>
        if s.log = [] ∧ (s.mst k).supervisor = true then (s.mst k).post .logPending else s.mst k := funext mst
    rw [before] at cut
    have cut := cut.congr (s' := s) objects.symm pool.symm rfl rfl rfl
    exact ⟨cut.objects.holdsNothing apart, batch, left, cut⟩

end Sys2Proof.Machine
end

section
/-! PROOFS. The time base and the expiries: SET_TIME_BASE, the periods of RCLK and the TU they end, the expiries taken
first, and the events that do not occur (R60, R68, R115, R150 to R154). -/

namespace Sys2Proof.Machine

/-! ### The expiries taken first -/

/-- The state left when every expiry is taken is reached by taking them one after another (R115, R151). -/
theorem takeOutstandingUpTo_allTaken {n : Nat} {s : State} (enough : s.outstanding.length ≤ n) :
    AllTaken s (takeOutstandingUpTo n s) := by
  induction n generalizing s with
  | zero => exact .done s (List.length_eq_zero_iff.mp (Nat.le_zero.mp enough))
  | succ n ih =>
    unfold takeOutstandingUpTo
    split
    · rename_i none
      exact .done s none
    · rename_i e one
      have fewer := takeExpiry_outstanding_lt (e := e) (s := s) (by simp [one])
      rw [one] at fewer
      exact .take s _ e s.choices (by simp [one])
        (.done _ (List.length_eq_zero_iff.mp (Nat.lt_one_iff.mp fewer)))
    · rename_i e es _ more
      have picked : (e :: es).getD (Config.expiryChoice s.choices % (e :: es).length) e ∈ s.outstanding := by
        rw [more, List.getD_eq_getElem _ _ (Nat.mod_lt _ (by simp))]
        exact List.getElem_mem _
      have fewer := takeExpiry_outstanding_lt (s := { s with choices := s.choices + 1 }) picked
      exact .take s _ _ (s.choices + 1) picked (ih (Nat.le_of_lt_succ (Nat.lt_of_lt_of_le fewer enough)))

theorem takeOutstanding_allTaken (s : State) : AllTaken s (takeOutstanding s) :=
  takeOutstandingUpTo_allTaken (Nat.le_refl _)

theorem takeOutstanding_timeBase (s : State) : (takeOutstanding s).timeBase = s.timeBase :=
  (takeOutstanding_tableWork s).timeBase

/-- Taking the expiries leaves an idle bus idle. -/
theorem takeOutstanding_deasserted (s : State) : (takeOutstanding s.deasserted).deasserted = takeOutstanding s.deasserted :=
  have bus := (takeOutstanding_tableWork s.deasserted).bus
  State.deasserted_of_idle bus.ack bus.deny bus.dataOut

/-- With them taken there are none to take. -/
theorem takeOutstanding_takeOutstanding (s : State) : takeOutstanding (takeOutstanding s) = takeOutstanding s :=
  takeOutstanding_of_none (takeOutstanding_outstanding s)

/-! ### The periods of RCLK -/

/-- A period of RCLK while RUNNING, taken (R150; log 4). -/
theorem exec_rclkPeriod_of_running {s : State} (running : s.timeBase.runState = .running) :
    exec .rclkPeriod s = .next (countPeriod (takeOutstanding s.deasserted)) :=
  congrArg Host.Outcome.next (if_pos (beq_iff_eq.mpr running))

/-- The end of a TU while RUNNING, taken (R151; logs 4 and 5). -/
theorem exec_timeUnitEnd_of_running {s : State} (running : s.timeBase.runState = .running) :
    exec .timeUnitEnd s = .next (endTimeUnit (takeOutstanding s.deasserted)) :=
  congrArg Host.Outcome.next (if_pos (beq_iff_eq.mpr running))

/-- A period and the end of a TU take the same course from the state whose expiries are taken. -/
theorem exec_period_of_taken {s : State} (running : s.timeBase.runState = .running) :
    exec .rclkPeriod s = exec .rclkPeriod (takeOutstanding s.deasserted) ∧
      exec .timeUnitEnd s = exec .timeUnitEnd (takeOutstanding s.deasserted) := by
  have stillRunning : (takeOutstanding s.deasserted).timeBase.runState = .running := by
    rw [takeOutstanding_timeBase]; exact running
  rw [exec_rclkPeriod_of_running running, exec_rclkPeriod_of_running stillRunning, exec_timeUnitEnd_of_running running,
    exec_timeUnitEnd_of_running stillRunning, takeOutstanding_deasserted, takeOutstanding_takeOutstanding]
  exact ⟨rfl, rfl⟩

/-- A period short of the TU's end is counted (R150). -/
theorem countPeriod_of_below {s : State} (below : s.timeBase.periodCount < s.timeBase.dividerInForce) :
    countPeriod s = { s with timeBase := { s.timeBase with periodCount := s.timeBase.periodCount + 1 } } :=
  if_pos below

/-- The last period of a TU ends it (R150). -/
theorem countPeriod_of_last {s : State} (last : s.timeBase.periodCount = s.timeBase.dividerInForce) :
    countPeriod s = endTimeUnit s :=
  if_neg (by rw [last]; exact BitVec.lt_irrefl _)

/-- Settles O41: while RUNNING a period is counted or ends the TU, once the expiries outstanding are taken; while STOPPED
none is. -/
theorem rclkPeriodCounts : Obligations.RclkPeriodCounts := by
  intro s
  have sameBase : (takeOutstanding s.deasserted).timeBase = s.timeBase := takeOutstanding_timeBase _
  refine ⟨fun running below => ?_, fun running last => ?_, fun stopped => ⟨?_, ?_⟩⟩
  · refine ⟨_, exec_rclkPeriod_of_running running, ?_, fun none => ?_⟩
    · rw [countPeriod_of_below (by rw [sameBase]; exact below), sameBase]
    · rw [takeOutstanding_of_none (s := s.deasserted) none, countPeriod_of_below (s := s.deasserted) below]
  · refine ⟨_, exec_rclkPeriod_of_running running, ?_, ?_⟩
    · rw [exec_timeUnitEnd_of_running running, countPeriod_of_last (by rw [sameBase]; exact last)]
    · rw [countPeriod_of_last (by rw [sameBase]; exact last)]
      exact congrArg TimeBase.timeUnitEnds sameBase
  · exact congrArg Host.Outcome.next (if_neg (by rw [State.deasserted_timeBase, stopped]; decide))
  · exact congrArg Host.Outcome.next (if_neg (by rw [State.deasserted_timeBase, stopped]; decide))

/-- A period counted before it does not change what the end of the TU does (log 5). -/
theorem exec_timeUnitEnd_of_counted {s : State} (running : s.timeBase.runState = .running)
    (below : s.timeBase.periodCount < s.timeBase.dividerInForce) :
    exec .timeUnitEnd (countPeriod (takeOutstanding s.deasserted)) = exec .timeUnitEnd s := by
  have idle := takeOutstanding_deasserted s
  have none := takeOutstanding_outstanding s.deasserted
  have sameBase : (takeOutstanding s.deasserted).timeBase = s.timeBase := takeOutstanding_timeBase _
  rw [exec_timeUnitEnd_of_running running]
  generalize takeOutstanding s.deasserted = u at idle none sameBase
  rw [← sameBase] at below running
  have counted := takeOutstanding_of_none (s := State.deasserted
    { u with timeBase := { u.timeBase with periodCount := u.timeBase.periodCount + 1 } }) none
  rw [countPeriod_of_below below]
  refine (exec_timeUnitEnd_of_running
    (s := { u with timeBase := { u.timeBase with periodCount := u.timeBase.periodCount + 1 } }) running).trans
    (congrArg Host.Outcome.next ?_)
  calc endTimeUnit (takeOutstanding (State.deasserted
        { u with timeBase := { u.timeBase with periodCount := u.timeBase.periodCount + 1 } }))
      = endTimeUnit (State.deasserted
        { u with timeBase := { u.timeBase with periodCount := u.timeBase.periodCount + 1 } }) :=
        congrArg endTimeUnit counted
    _ = endTimeUnit u.deasserted := rfl
    _ = endTimeUnit u := congrArg endTimeUnit idle

/-- Settles O42, by induction on the periods still owed to the TU: all but the last are counted, and the last ends it. -/
theorem timeUnitEndIsPeriodsOwed : Obligations.TimeUnitEndIsPeriodsOwed := by
  intro s running inForce
  generalize owed : s.timeBase.dividerInForce.toNat - s.timeBase.periodCount.toNat = k
  induction k generalizing s with
  | zero =>
    have last : s.timeBase.periodCount = s.timeBase.dividerInForce := by
      apply BitVec.eq_of_toNat_eq
      have := BitVec.le_def.mp inForce
      omega
    obtain ⟨t, period, unit, -⟩ := (rclkPeriodCounts s).2.1 running last
    rw [rclkPeriods, period, unit]
    rfl
  | succ k ih =>
    have belowNat : s.timeBase.periodCount.toNat < s.timeBase.dividerInForce.toNat := by omega
    have below : s.timeBase.periodCount < s.timeBase.dividerInForce := BitVec.lt_def.mpr belowNat
    have base : (countPeriod (takeOutstanding s.deasserted)).timeBase =
        { s.timeBase with periodCount := s.timeBase.periodCount + 1 } := by
      have sameBase : (takeOutstanding s.deasserted).timeBase = s.timeBase := takeOutstanding_timeBase _
      rw [countPeriod_of_below (by rw [sameBase]; exact below), sameBase]
    have risen : (s.timeBase.periodCount + 1).toNat = s.timeBase.periodCount.toNat + 1 := by
      have := s.timeBase.dividerInForce.isLt
      have one : (1 : BitVec 16).toNat = 1 := rfl
      rw [BitVec.toNat_add, one, Nat.mod_eq_of_lt (by omega)]
    rw [rclkPeriods, exec_rclkPeriod_of_running running, ← exec_timeUnitEnd_of_counted running below]
    refine ih _ (by rw [base]; exact running) (by rw [base, BitVec.le_def]; dsimp only; omega) ?_
    rw [base]
    dsimp only
    omega

/-! ### SET_TIME_BASE -/

/-- A SET_TIME_BASE that passes its checks, taken (R152, R153; log 4). -/
theorem exec_setTimeBase_of_admitted {m : Master} {w : Word} {s : State} (released : s.resetAsserted = false)
    (supervisor : (s.mst m).supervisor = true) (wellFormed : bitsOutside w timeBaseMask = false) :
    exec (.setTimeBase m w) s = .next (({ takeOutstanding s.acknowledged with
      timeBase := (takeOutstanding s.acknowledged).timeBase.configure w } : State).answer m (ResultRec.done 0)) :=
  have passes : firstFailing [(notSupervisor m s.acknowledged, .notPrivileged),
      (bitsOutside w timeBaseMask, .badOperand)] = none :=
    firstFailing_supervisor_eq_none_iff.mpr ⟨supervisor, wellFormed⟩
  calc exec (.setTimeBase m w) s = answerWindow s (setTimeBase m w) := rfl
    _ = .next (setTimeBase m w s.acknowledged) := answerWindow_of_released released _
    _ = _ := congrArg _ (State.checked_of_none passes _)

/-- Settles O40: the divider and the run state are set on the part whose expiries are taken. -/
theorem setTimeBaseSetsBoth : Obligations.SetTimeBaseSetsBoth := by
  intro m w s released supervisor inside
  have wellFormed : bitsOutside w timeBaseMask = false := (bitsOutside_eq_false_iff w _).mpr inside
  have work := takeOutstanding_tableWork s.acknowledged
  refine ⟨_, exec_setTimeBase_of_admitted released supervisor wellFormed, ?_, ?_, ?_, fun none => ?_⟩
  · exact congrArg (TimeBase.configure · w) work.timeBase
  · exact State.answer_ports_congr (s := s) (t := { takeOutstanding s.acknowledged with timeBase := _ }) work.bus.ports m _
  · exact takeOutstanding_outstanding s.acknowledged
  · rw [takeOutstanding_of_none (s := s.acknowledged) none]
    rfl

/-! ### When an owed advance is an expiry -/

theorem ObjectRec.settleFallsOut_iff (r : ObjectRec) :
    r.settleFallsOut = true ↔ r.owed.settle = true ∧ r.settleRemaining = some 1 := by
  simp only [settleFallsOut, Bool.and_eq_true, beq_iff_eq]

theorem ObjectRec.yieldFallsOut_iff (r : ObjectRec) :
    r.yieldFallsOut = true ↔ r.owed.yield = true ∧ ∃ y, r.yieldPending = some y ∧ y.remaining = 1 := by
  simp only [yieldFallsOut, Bool.and_eq_true, beq_iff_eq, Option.map_eq_some_iff]

theorem ObjectRec.tenureRisesTo_iff (r : ObjectRec) (mark : BitVec 16) :
    r.tenureRisesTo mark = true ↔ r.owed.tenure = true ∧ r.tenure ≠ 65535#16 ∧ r.tenure + 1 = mark := by
  simp only [tenureRisesTo, Bool.and_eq_true, beq_iff_eq, bne_iff_ne, and_assoc]

theorem ObjectRec.reachesCeiling_iff (r : ObjectRec) :
    r.reachesCeiling = true ↔ r.ceiling ≠ 0 ∧ r.tenureRisesTo r.ceiling = true := by
  simp only [reachesCeiling, Bool.and_eq_true, bne_iff_ne]

/-! ### The events of one object or entry -/

/-- A DEADLINE whose yield remaining falls from 1 (R77). -/
theorem exec_deadline_of_fallsOut {o : ObjNum} {s : State} (fallsOut : (s.obj o).yieldFallsOut = true) :
    exec (.deadline o) s = .next (deadline o s.deasserted) :=
  congrArg Host.Outcome.next (if_pos fallsOut)

/-- A SETTLE_EXPIRY whose settle remaining falls from 1 (R85). -/
theorem exec_settleExpiry_of_fallsOut {o : ObjNum} {s : State} (fallsOut : (s.obj o).settleFallsOut = true) :
    exec (.settleExpiry o) s = .next (settleExpires o s.deasserted) :=
  congrArg Host.Outcome.next (if_pos fallsOut)

/-- A WAIT_LIMIT_EXPIRY of an entry that is due (R60). -/
theorem exec_waitLimitExpiry_of_due {o : ObjNum} {m : Master} {s : State} (due : s.entryDue o m = true) :
    exec (.waitLimitExpiry o m) s = .next (waitExpires o m s.deasserted) :=
  congrArg Host.Outcome.next (if_pos due)

/-- A TENURE_REACHES_CEILING that is no deadline (R68, R71). -/
theorem exec_tenureReachesCeiling_of_reached {o : ObjNum} {s : State} (reached : (s.obj o).reachesCeiling = true)
    (noDeadline : (s.obj o).yieldFallsOut = false) :
    exec (.tenureReachesCeiling o) s = .next (tenureEvent o s.deasserted) :=
  congrArg Host.Outcome.next (if_pos (by rw [State.deasserted_obj, reached, noDeadline]; rfl))

/-- A TENURE_REACHES_FLOOR that is no deadline (R68, R70). -/
theorem exec_tenureReachesFloor_of_reached {o : ObjNum} {s : State} (reached : (s.obj o).reachesFloor = true)
    (noDeadline : (s.obj o).yieldFallsOut = false) :
    exec (.tenureReachesFloor o) s = .next (tenureEvent o s.deasserted) :=
  congrArg Host.Outcome.next (if_pos (by rw [State.deasserted_obj, reached, noDeadline]; rfl))

theorem objectEvent_of_settle {o : ObjNum} {s : State} (fallsOut : (s.obj o).settleFallsOut = true) :
    objectEvent o s = settleExpires o s :=
  if_pos fallsOut

theorem objectEvent_of_yield {o : ObjNum} {s : State} (noSettle : (s.obj o).settleFallsOut = false)
    (fallsOut : (s.obj o).yieldFallsOut = true) : objectEvent o s = deadline o s := by
  rw [objectEvent, if_neg (Bool.eq_false_iff.mp noSettle), if_pos fallsOut]

theorem objectEvent_of_neither {o : ObjNum} {s : State} (noSettle : (s.obj o).settleFallsOut = false)
    (noYield : (s.obj o).yieldFallsOut = false) : objectEvent o s = tenureEvent o s := by
  rw [objectEvent, if_neg (Bool.eq_false_iff.mp noSettle), if_neg (Bool.eq_false_iff.mp noYield)]

/-- Settles O49: each event is offered under its condition, and each condition needs the count that its advance is owed
to at its mark (log 6). -/
theorem expiryNotOwedDoesNotOccur : Obligations.ExpiryNotOwedDoesNotOccur := by
  intro o m s
  refine ⟨fun none => ?_, fun none => ?_, fun none => ?_, fun none => ?_, fun none => ?_, fun none => ?_, fun none => ?_,
    fun none => ?_, fun none => ?_, fun none => ?_⟩
  · exact congrArg Host.Outcome.next (if_neg (by rw [State.deasserted_obj, none]; decide))
  · exact congrArg Host.Outcome.next (if_neg (by rw [State.deasserted_obj, none]; decide))
  · exact congrArg Host.Outcome.next (if_neg (by simpa [← Bool.not_eq_true, imp_iff_not_or] using none))
  · exact congrArg Host.Outcome.next (if_neg (by simpa [← Bool.not_eq_true, imp_iff_not_or] using none))
  · exact congrArg Host.Outcome.next (if_neg (Bool.eq_false_iff.mp none))
  · rw [Bool.eq_false_iff, ne_eq, ObjectRec.yieldFallsOut_iff]
    rintro ⟨owed, y, pending, one⟩
    obtain notOwed | notOne := none
    · exact Bool.false_ne_true (notOwed.symm.trans owed)
    · exact notOne y pending one
  · rw [Bool.eq_false_iff, ne_eq, ObjectRec.settleFallsOut_iff]
    rintro ⟨owed, one⟩
    obtain notOwed | notOne := none
    · exact Bool.false_ne_true (notOwed.symm.trans owed)
    · exact notOne one
  · rw [Bool.eq_false_iff, ne_eq, ObjectRec.reachesCeiling_iff, ObjectRec.tenureRisesTo_iff]
    rintro ⟨ceiling, owed, -, there⟩
    obtain notOwed | noCeiling | notThere := none
    · exact Bool.false_ne_true (notOwed.symm.trans owed)
    · exact ceiling noCeiling
    · exact notThere there
  · rw [Bool.eq_false_iff, ne_eq, ObjectRec.reachesFloor, ObjectRec.tenureRisesTo_iff]
    rintro ⟨owed, -, there⟩
    obtain notOwed | notThere := none
    · exact Bool.false_ne_true (notOwed.symm.trans owed)
    · exact notThere there
  · rw [State.entryDue, List.any_eq_false]
    intro e mem both
    rw [Bool.and_eq_true, beq_iff_eq] at both
    exact Bool.false_ne_true ((none e mem both.1).symm.trans both.2)

/-- Settles O46: the removal takes out every entry of the master, and in a line without repeats that is the one due. -/
theorem waitLimitExpiryEndsWait : Obligations.WaitLimitExpiryEndsWait := by
  intro o m s due distinct
  have waiting : s.isWaiting m o = true := by
    obtain ⟨e, mem, both⟩ := List.any_eq_true.mp due
    exact List.any_eq_true.mpr ⟨e, mem, (Bool.and_eq_true _ _ ▸ both).1⟩
  have one : ((s.deasserted.obj o).line.countP fun e => e.master == m) = 1 :=
    State.countP_master_eq_one waiting distinct
  rw [exec_waitLimitExpiry_of_due due, waitExpires, State.removeWaiter_eq, one]
  rfl

/-! ### All of them are taken -/

/-- The window access takes the same course from the state whose expiries are taken. -/
theorem exec_setTimeBase_of_taken {m : Master} {w : Word} {s : State} (released : s.resetAsserted = false)
    (supervisor : (s.mst m).supervisor = true) (wellFormed : bitsOutside w timeBaseMask = false) :
    exec (.setTimeBase m w) s = exec (.setTimeBase m w) (takeOutstanding s.acknowledged) := by
  have work := takeOutstanding_tableWork s.acknowledged
  have stillReleased : (takeOutstanding s.acknowledged).resetAsserted = false := work.bus.resetAsserted.trans released
  have stillSupervisor : ((takeOutstanding s.acknowledged).mst m).supervisor = true :=
    (work.masters m).supervisor.trans supervisor
  have stillAcknowledged : (takeOutstanding s.acknowledged).acknowledged = takeOutstanding s.acknowledged := by
    have ack : (takeOutstanding s.acknowledged).ack = true := work.bus.ack
    have deny : (takeOutstanding s.acknowledged).deny = false := work.bus.deny
    have dataOut : (takeOutstanding s.acknowledged).dataOut = none := work.bus.dataOut
    generalize takeOutstanding s.acknowledged = u at ack deny dataOut
    cases u
    simp only at ack deny dataOut
    rw [State.acknowledged, ack, deny, dataOut]
  rw [exec_setTimeBase_of_admitted released supervisor wellFormed,
    exec_setTimeBase_of_admitted stillReleased stillSupervisor wellFormed, stillAcknowledged,
    takeOutstanding_takeOutstanding]

/-- Settles O50: the commands that need no expiry outstanding take them first, and the rows of the expiries are the same
work as the taking of each. -/
theorem outstandingExpiriesAllTaken : Obligations.OutstandingExpiriesAllTaken := by
  refine ⟨fun s => ⟨takeOutstanding_outstanding s, takeOutstanding_timeBase s⟩, fun s running => ?_,
    fun m w s released supervisor inside => ?_, fun o s => ?_⟩
  · obtain ⟨period, unit⟩ := exec_period_of_taken running
    exact ⟨_, takeOutstanding_allTaken s.deasserted, takeOutstanding_outstanding _, takeOutstanding_timeBase s.deasserted,
      period, unit⟩
  · have wellFormed : bitsOutside w timeBaseMask = false := (bitsOutside_eq_false_iff w _).mpr inside
    exact ⟨_, takeOutstanding_allTaken s.acknowledged, takeOutstanding_outstanding _,
      takeOutstanding_timeBase s.acknowledged, exec_setTimeBase_of_taken released supervisor wellFormed⟩
  · refine ⟨fun settles => ?_, fun noSettle yields => ?_, fun noSettle noYield => ⟨fun ceiling => ?_, fun floor => ?_⟩,
      fun m due => ?_⟩
    · exact (exec_settleExpiry_of_fallsOut settles).trans
        (congrArg Host.Outcome.next (objectEvent_of_settle (s := s.deasserted) settles).symm)
    · exact (exec_deadline_of_fallsOut yields).trans
        (congrArg Host.Outcome.next (objectEvent_of_yield (s := s.deasserted) noSettle yields).symm)
    · exact (exec_tenureReachesCeiling_of_reached ceiling noYield).trans
        (congrArg Host.Outcome.next (objectEvent_of_neither (s := s.deasserted) noSettle noYield).symm)
    · exact (exec_tenureReachesFloor_of_reached floor noYield).trans
        (congrArg Host.Outcome.next (objectEvent_of_neither (s := s.deasserted) noSettle noYield).symm)
    · exact exec_waitLimitExpiry_of_due due

end Sys2Proof.Machine
end

section
/-! PROOFS. The expiries of one object: the settle expiry, which resumes handover, and the tenure at its ceiling and its
floor, which asks a yield (R45, R46, R68 to R73, R85). -/

namespace Sys2Proof.Machine

/-! ### A settle expiry -/

/-- With no entry a settle expiry leaves the object FREE and posts FREED to its watchers (R41). -/
theorem settleExpires_of_no_line {o : ObjNum} {s : State} (noLine : (s.obj o).line = []) :
    (settleExpires o s).obj o =
        { s.obj o with settleRemaining := none, owed := Owed.none, state := .free, tenure := 0, watchers := 0 } ∧
      (settleExpires o s).poolFree = s.poolFree ∧
      ∀ k, (settleExpires o s).mst k =
        if isMember (s.obj o).watchers k then (s.mst k).post (.freed o) else s.mst k := by
  have free : settleExpires o s =
      becomeFree o (s.modObj o fun r => { r with settleRemaining := none, owed := Owed.none }) := by
    rw [settleExpires, handoverFromStep2, if_pos (by simp [noLine])]
  rw [free]
  refine ⟨by rw [becomeFree_obj, State.modObj_obj_self], by simp [becomeFree], fun k => ?_⟩
  simp only [becomeFree, State.postEach_members_mst, State.modObj_mst, State.modObj_obj_self]

/-- The record that step 3 grants from a line with an entry, but for the yield that may be asked (R42 to R45). -/
theorem grantFromLine_fields (o : ObjNum) (s : State) :
    let t := (grantFromLine o s).obj o
    t.settleRemaining = (s.obj o).settleRemaining ∧ t.tenure = 0 ∧ t.watchers = (s.obj o).watchers ∧
      t.state = grantedState (s.obj o).line ∧ t.line = remainingEntries (s.obj o).line ∧
      t.holders = setOf ((grantedEntries (s.obj o).line).map Entry.master) := by
  rw [grantFromLine_obj]
  split <;> exact ⟨rfl, rfl, rfl, rfl, rfl, rfl⟩

/-- With an entry a settle expiry grants from the line (R42 to R46). -/
theorem settleExpires_of_line {o : ObjNum} {s : State} {e : Entry} {rest : List Entry}
    (line : (s.obj o).line = e :: rest) :
    settleExpires o s =
      grantFromLine o (s.modObj o fun r => { r with settleRemaining := none, owed := Owed.none }) := by
  rw [settleExpires, handoverFromStep2, if_neg (by simp [line])]

theorem grantedState_cons (e : Entry) (rest : List Entry) :
    grantedState (e :: rest) = if e.mode = .exclusive then .heldExclusive else .heldShared := by
  simp only [grantedState, beq_iff_eq]

/-- A lone entry is granted, and nothing is left in the line. -/
theorem grantedEntries_singleton (e : Entry) : grantedEntries [e] = [e] ∧ remainingEntries [e] = [] := by
  cases mode : e.mode <;> simp [grantedEntries, remainingEntries, mode]

/-- Granting a lone entry posts GRANTED to its master alone: with no entry left no yield is asked (R44, R45). -/
theorem grantFromLine_mst_singleton {o : ObjNum} {s : State} {e : Entry} (line : (s.obj o).line = [e]) (k : Master) :
    (grantFromLine o s).mst k = if k = e.master then (s.mst k).post (.granted o e.mode e.tag) else s.mst k := by
  obtain ⟨granted, left⟩ := grantedEntries_singleton e
  have none : (s.obj o).grantedFromLine.contended = false := by
    simp [ObjectRec.contended, ObjectRec.grantedFromLine, line, left]
  rw [grantFromLine_mst, none, line, granted]
  by_cases own : e.master = k
  · simp [own]
  · simp [own, Ne.symm own]

/-- Settles O45: the handover resumes at step 2, with the line empty or with an entry to grant. -/
theorem settleExpiryResumesHandover : Obligations.SettleExpiryResumesHandover := by
  intro o s fallsOut
  have taken := exec_settleExpiry_of_fallsOut fallsOut
  have work := settleExpires_work o s.deasserted
  have only := settleExpires_only o s.deasserted
  have inRow : (s.obj o).Row → (s.obj o).state = .settling → _ := fun row settling => by
    obtain ⟨holders, tenure, yield, -⟩ := show (s.obj o).holders = 0 ∧ (s.obj o).tenure = 0 ∧
        (s.obj o).yieldPending = none ∧ _ by
      rw [ObjectRec.Row, settling] at row; exact row
    exact settleExpires_handedOver (s := s.deasserted) holders tenure yield
  cases line : (s.obj o).line with
  | nil =>
    obtain ⟨obj, pool, mst⟩ := settleExpires_of_no_line (s := s.deasserted) line
    refine ⟨_, taken, by rw [obj], by rw [obj], fun _ => ⟨by rw [obj], by rw [obj], pool, mst⟩, nofun,
      fun row settling => ?_, only, work⟩
    obtain ⟨split, handed⟩ := inRow row settling
    exact ⟨_, _, line ▸ split, handed⟩
  | cons e rest =>
    have granting := settleExpires_of_line (s := s.deasserted) line
    have pool := grantFromLine_poolFree o
      (s.deasserted.modObj o fun r => { r with settleRemaining := none, owed := Owed.none })
    obtain ⟨settle, tenure, watchers, state, left, holders⟩ := grantFromLine_fields o
      (s.deasserted.modObj o fun r => { r with settleRemaining := none, owed := Owed.none })
    have alone := @grantFromLine_mst_singleton o
      (s.deasserted.modObj o fun r => { r with settleRemaining := none, owed := Owed.none })
    rw [← granting] at pool settle tenure watchers state left holders alone
    simp only [State.modObj_obj_self, State.deasserted_obj, line] at pool settle tenure watchers state left holders alone
    refine ⟨_, taken, settle, tenure, nofun, fun x xs same => ?_, fun row settling => ?_, only, work⟩
    · obtain ⟨rfl, rfl⟩ := List.cons.inj same
      refine ⟨?_, watchers, state.trans (grantedState_cons _ _), ?_, fun mode => ?_, fun last k => ?_⟩
      · obtain ⟨batch, granted⟩ := grantedEntries_cons e rest
        rw [holders, isMember_setOf, granted]
        simp
      · have lengths := congrArg List.length (grantedEntries_append_remaining (e :: rest))
        rw [List.length_append] at lengths
        rw [pool, left, ← lengths]
        exact Nat.add_assoc _ _ _
      · obtain ⟨batch, kept⟩ := grantedEntries_of_exclusive mode rest
        rw [left, kept, holders, batch]
        exact ⟨rfl, setOf_singleton _⟩
      · subst last
        exact alone rfl k
    · obtain ⟨split, handed⟩ := inRow row settling
      exact ⟨_, _, line ▸ split, handed⟩

/-! ### The tenure at a mark -/

/-- A tenure that rises to a mark stands there once it has risen (R70, R71). -/
theorem ObjectRec.advanceOwed_tenure_of_rises {r : ObjectRec} {mark : BitVec 16} (rises : r.tenureRisesTo mark = true) :
    r.advanceOwed.tenure = mark := by
  obtain ⟨owed, notFull, there⟩ := (r.tenureRisesTo_iff mark).mp rises
  rw [advanceOwed]
  dsimp only
  rw [if_pos owed, saturatingRise16, if_neg (by simpa using notFull), there]

/-- A yield pending stays pending while its remaining count falls (R68). -/
theorem ObjectRec.advanceOwed_yieldPending_of_some {r : ObjectRec} {y : YieldPending} (pending : r.yieldPending = some y) :
    r.advanceOwed.yieldPending =
      some { y with remaining := if r.owed.yield then y.remaining - 1 else y.remaining } := by
  rw [advanceOwed]
  dsimp only
  rw [pending]
  cases r.owed.yield <;> rfl

theorem ObjectRec.advanceOwed_yieldPending_of_none {r : ObjectRec} (none : r.yieldPending = none) :
    r.advanceOwed.yieldPending = Option.none := by
  rw [advanceOwed]
  dsimp only
  rw [none]
  cases r.owed.yield <;> rfl

/-- An object whose settle count is not owed advances its yield and its tenure alone (R68). -/
theorem ObjectRec.advanceOwed_of_no_settle {r : ObjectRec} (noSettle : r.owed.settle = false) :
    r.advanceOwed =
      { r with yieldPending := r.advanceOwed.yieldPending, tenure := r.advanceOwed.tenure, owed := Owed.none } := by
  have stands : r.advanceOwed.settleRemaining = r.settleRemaining := by
    rw [advanceOwed]; dsimp only; rw [noSettle]; rfl
  conv_rhs => rw [← stands]
  rfl

/-- With a yield pending the contention test fails (R69). -/
theorem ObjectRec.not_contended_of_pending {r : ObjectRec} {y : YieldPending} (pending : r.yieldPending = some y) :
    r.contended = false := by
  simp [contended, pending]

theorem ceilingTest_of_none {o : ObjNum} {s : State} (none : (s.obj o).yieldPending = none) :
    ceilingTest o s = askYield o .ceiling s :=
  if_pos (by rw [none]; rfl)

theorem ceilingTest_of_some {o : ObjNum} {s : State} {y : YieldPending} (pending : (s.obj o).yieldPending = some y) :
    ceilingTest o s = s :=
  if_neg (by rw [pending]; exact Bool.false_ne_true)

/-- At the ceiling the ceiling test is made, after which a yield is pending, so the contention test would fail (R68). -/
theorem tenureEvent_of_ceiling {o : ObjNum} {s : State} (ceiling : (s.obj o).reachesCeiling = true) :
    tenureEvent o s = ceilingTest o (s.modObj o ObjectRec.advanceOwed) := by
  have pending : ∃ y, ((ceilingTest o (s.modObj o ObjectRec.advanceOwed)).obj o).yieldPending = some y := by
    generalize s.modObj o ObjectRec.advanceOwed = u
    cases before : (u.obj o).yieldPending with
    | none => rw [ceilingTest_of_none before, askYield_obj]; exact ⟨_, rfl⟩
    | some y => rw [ceilingTest_of_some before]; exact ⟨y, before⟩
  obtain ⟨y, pending⟩ := pending
  unfold tenureEvent
  dsimp only
  rw [if_pos ceiling]
  split
  · exact contentionTest_of_not (ObjectRec.not_contended_of_pending pending)
  · rfl

/-- At the floor alone the contention test is made (R70). -/
theorem tenureEvent_of_floor {o : ObjNum} {s : State} (noCeiling : (s.obj o).reachesCeiling = false)
    (floor : (s.obj o).reachesFloor = true) :
    tenureEvent o s = contentionTest o (s.modObj o ObjectRec.advanceOwed) := by
  unfold tenureEvent
  dsimp only
  rw [if_neg (Bool.eq_false_iff.mp noCeiling), if_pos floor]

/-- Settles O47: the tenure rises to the ceiling, and a yield is asked unless one is pending. -/
theorem ceilingAsksYield : Obligations.CeilingAsksYield := by
  intro o s ceiling noDeadline
  have taken := exec_tenureReachesCeiling_of_reached ceiling noDeadline
  have only := tenureEvent_only o s.deasserted
  have work := tenureEvent_work o s.deasserted
  have event := tenureEvent_of_ceiling (s := s.deasserted) ceiling
  have risen : (s.obj o).advanceOwed.tenure = (s.obj o).ceiling :=
    ObjectRec.advanceOwed_tenure_of_rises (((s.obj o).reachesCeiling_iff).mp ceiling).2
  have sameFloor (floor : (s.obj o).reachesFloor = true) :
      exec (.tenureReachesFloor o) s = exec (.tenureReachesCeiling o) s :=
    (exec_tenureReachesFloor_of_reached floor noDeadline).trans taken.symm
  cases pending : (s.obj o).yieldPending with
  | none =>
    have stays : ((s.deasserted.modObj o ObjectRec.advanceOwed).obj o).yieldPending = none := by
      rw [State.modObj_obj_self]; exact ObjectRec.advanceOwed_yieldPending_of_none pending
    rw [ceilingTest_of_none stays] at event
    have obj : (tenureEvent o s.deasserted).obj o = { (s.obj o).advanceOwed with
        yieldPending := some { remaining := (s.obj o).allowance, reason := .ceiling } } := by
      rw [event, askYield_obj, State.modObj_obj_self]; rfl
    have mst (k : Master) : (tenureEvent o s.deasserted).mst k = if isMember (s.obj o).holders k then
        (s.mst k).post (.yieldAsked o .ceiling (s.obj o).allowance) else s.mst k := by
      rw [event, askYield_mst, State.modObj_obj_self]; rfl
    have pool : (tenureEvent o s.deasserted).poolFree = s.poolFree := by rw [event]; simp [askYield]
    refine ⟨_, taken, by rw [obj]; exact risen, fun _ => ⟨by rw [obj], mst⟩, nofun, sameFloor, fun noSettle => ?_,
      by rw [obj]; rfl, by rw [obj]; rfl, by rw [obj]; rfl, pool, only, work⟩
    rw [obj, ObjectRec.advanceOwed_of_no_settle noSettle, risen]
  | some y =>
    have advanced := ObjectRec.advanceOwed_yieldPending_of_some pending
    rw [ceilingTest_of_some (by rw [State.modObj_obj_self]; exact advanced)] at event
    have obj : (tenureEvent o s.deasserted).obj o = (s.obj o).advanceOwed := by
      rw [event, State.modObj_obj_self]; rfl
    have masters : (tenureEvent o s.deasserted).masters = s.masters := by rw [event]; rfl
    have pool : (tenureEvent o s.deasserted).poolFree = s.poolFree := by rw [event]; rfl
    refine ⟨_, taken, by rw [obj]; exact risen, nofun, fun x same => ⟨masters, ?_⟩, sameFloor, fun noSettle => ?_,
      by rw [obj]; rfl, by rw [obj]; rfl, by rw [obj]; rfl, pool, only, work⟩
    · cases same
      rw [obj]; exact advanced
    · rw [obj]
      exact (ObjectRec.advanceOwed_of_no_settle noSettle).trans (by rw [risen])

/-- Settles O48: the tenure rises to the floor, and a yield is asked just where contention yield is on, an entry waits
and no yield is pending. -/
theorem floorMakesContentionTest : Obligations.FloorMakesContentionTest := by
  intro o s floor noCeiling held noDeadline
  have taken := exec_tenureReachesFloor_of_reached floor noDeadline
  have only := tenureEvent_only o s.deasserted
  have work := tenureEvent_work o s.deasserted
  have event := tenureEvent_of_floor (s := s.deasserted) noCeiling floor
  have risen : (s.obj o).advanceOwed.tenure = (s.obj o).floor.setWidth 16 := ObjectRec.advanceOwed_tenure_of_rises floor
  have pool : (tenureEvent o s.deasserted).poolFree = s.poolFree := by rw [event, contentionTest_poolFree]; rfl
  have contended : (s.obj o).advanceOwed.contended = true ↔ (s.obj o).contentionYield = true ∧ (s.obj o).line ≠ [] ∧
      (s.obj o).advanceOwed.yieldPending = none := by
    have stillHeld : (s.obj o).advanceOwed.isHeld = true := held
    have reached : (s.obj o).floor.toNat ≤ (s.obj o).advanceOwed.tenure.toNat := by
      have := (s.obj o).floor.isLt
      rw [risen, BitVec.toNat_setWidth, Nat.mod_eq_of_lt (by omega)]
    rw [ObjectRec.contended_iff]
    exact ⟨fun ⟨_, yields, waits, _, noYield⟩ => ⟨yields, waits, noYield⟩,
      fun ⟨yields, waits, noYield⟩ => ⟨stillHeld, yields, waits, reached, noYield⟩⟩
  cases test : (s.obj o).advanceOwed.contended with
  | true =>
    obtain ⟨yields, waits, noYield⟩ := contended.mp test
    have obj : (tenureEvent o s.deasserted).obj o = { (s.obj o).advanceOwed with
        yieldPending := some { remaining := (s.obj o).allowance, reason := .contention } } := by
      rw [event, contentionTest_obj, State.modObj_obj_self, State.deasserted_obj, if_pos test]; rfl
    have mst (k : Master) : (tenureEvent o s.deasserted).mst k = if isMember (s.obj o).holders k then
        (s.mst k).post (.yieldAsked o .contention (s.obj o).allowance) else s.mst k := by
      rw [event, contentionTest_mst, State.modObj_obj_self, State.deasserted_obj, test, Bool.true_and]; rfl
    refine ⟨_, taken, by rw [obj]; exact risen, fun _ _ _ => ⟨by rw [obj], mst⟩, fun _ unmet => ?_,
      fun y pending => ?_, fun noSettle => ?_, by rw [obj]; rfl, by rw [obj]; rfl, by rw [obj]; rfl, pool, only, work⟩
    · obtain noYields | noLine := unmet
      · exact absurd yields (by rw [noYields]; exact Bool.false_ne_true)
      · exact absurd noLine waits
    · rw [ObjectRec.advanceOwed_yieldPending_of_some pending] at noYield
      cases noYield
    · rw [obj, ObjectRec.advanceOwed_of_no_settle noSettle, risen]
  | false =>
    have event := event.trans (contentionTest_of_not (by rw [State.modObj_obj_self]; exact test))
    have obj : (tenureEvent o s.deasserted).obj o = (s.obj o).advanceOwed := by
      rw [event, State.modObj_obj_self]; rfl
    have masters : (tenureEvent o s.deasserted).masters = s.masters := by rw [event]; rfl
    refine ⟨_, taken, by rw [obj]; exact risen, fun noYield yields waits => ?_, fun noYield _ => ⟨?_, masters⟩,
      fun y pending => ⟨masters, ?_⟩, fun noSettle => ?_, by rw [obj]; rfl, by rw [obj]; rfl, by rw [obj]; rfl, pool,
      only, work⟩
    · have met := contended.mpr ⟨yields, waits, ObjectRec.advanceOwed_yieldPending_of_none noYield⟩
      exact absurd (test.symm.trans met) Bool.false_ne_true
    · rw [obj]; exact ObjectRec.advanceOwed_yieldPending_of_none noYield
    · rw [obj]; exact ObjectRec.advanceOwed_yieldPending_of_some pending
    · rw [obj]
      exact (ObjectRec.advanceOwed_of_no_settle noSettle).trans (by rw [risen])

end Sys2Proof.Machine
end

section
/-! PROOFS. The end of a TU: what each object and each waiter entry advances at once, and what it owes an expiry (R59,
R60, R68, R70, R71, R77, R85, R151; log 3). -/

namespace Sys2Proof.Machine

/-! ### What an object owes -/

theorem ObjectRec.owe_of_idle {r : ObjectRec} (idle : r.state = .offline ∨ r.state = .free) :
    r.owe = { r with owed := Owed.none } := by
  obtain state | state := idle <;> simp [owe, isHeld, state, Owed.none]

theorem ObjectRec.owe_of_settling {r : ObjectRec} (settling : r.state = .settling) :
    r.owe = { r with owed := { settle := true, yield := false, tenure := false } } := by
  simp [owe, isHeld, settling]

theorem ObjectRec.owe_of_held {r : ObjectRec} (held : r.isHeld = true) :
    r.owe = { r with owed := { settle := false, yield := r.yieldPending.isSome, tenure := true } } := by
  have notSettling : (r.state == .settling) = false := by
    cases state : r.state <;> simp [isHeld, state] at held <;> rfl
  rw [owe, held, notSettling, Bool.true_and]

theorem ObjectRec.timeUnitEnds_of_expires {r : ObjectRec} (expires : r.owe.expires = true) : r.timeUnitEnds = r.owe :=
  if_pos expires

theorem ObjectRec.timeUnitEnds_of_not {r : ObjectRec} (none : r.owe.expires = false) :
    r.timeUnitEnds = r.owe.advanceOwed :=
  if_neg (Bool.eq_false_iff.mp none)

/-- The four expiries of an object. -/
theorem ObjectRec.expires_iff (r : ObjectRec) :
    r.expires = true ↔ r.settleFallsOut = true ∨ r.yieldFallsOut = true ∨ r.reachesCeiling = true ∨
      r.reachesFloor = true := by
  simp only [expires, Bool.or_eq_true, or_assoc]

/-! ### Each object -/

theorem ObjectRec.advanceOwed_of_none {r : ObjectRec} (owes : r.owed = Owed.none) : r.advanceOwed = r := by
  cases r
  subst owes
  rfl

/-- An object OFFLINE or FREE that owes nothing has nothing to advance. -/
theorem ObjectRec.timeUnitEnds_of_idle {r : ObjectRec} (idle : r.state = .offline ∨ r.state = .free)
    (owes : r.owed = Owed.none) : r.timeUnitEnds = r := by
  have none : r.owe = r := by rw [owe_of_idle idle, ← owes]
  have noExpiry : r.owe.expires = false := by
    rw [none]
    simp [expires, settleFallsOut, yieldFallsOut, reachesCeiling, reachesFloor, tenureRisesTo, owes, Owed.none]
  rw [timeUnitEnds_of_not noExpiry, none, advanceOwed_of_none owes]

/-- A settle remaining above 1 falls (R85). -/
theorem ObjectRec.timeUnitEnds_of_settling {r : ObjectRec} (settling : r.state = .settling)
    (owes : r.owed = Owed.none) {n : BitVec 8} (remaining : r.settleRemaining = some n) (above : n ≠ 1) :
    r.timeUnitEnds = { r with settleRemaining := some (n - 1) } := by
  have noExpiry : r.owe.expires = false := by
    rw [owe_of_settling settling]
    simp [expires, settleFallsOut, yieldFallsOut, reachesCeiling, reachesFloor, tenureRisesTo, remaining]
    exact above
  rw [timeUnitEnds_of_not noExpiry, owe_of_settling settling]
  conv_rhs => rw [← show r.settleRemaining.map (· - 1) = some (n - 1) by rw [remaining]; rfl]
  cases r
  subst owes
  rfl

/-- A settle remaining of 1 owes its fall (R85; log 3). -/
theorem ObjectRec.timeUnitEnds_of_settling_out {r : ObjectRec} (settling : r.state = .settling)
    (remaining : r.settleRemaining = some 1) :
    r.timeUnitEnds = { r with owed := { settle := true, yield := false, tenure := false } } ∧
      r.timeUnitEnds.settleFallsOut = true := by
  have falls : r.owe.settleFallsOut = true := by
    rw [settleFallsOut_iff, owe_of_settling settling]
    exact ⟨rfl, remaining⟩
  rw [timeUnitEnds_of_expires ((expires_iff _).mpr (.inl falls))]
  exact ⟨owe_of_settling settling, falls⟩

/-- A yield remaining of 1 owes its fall (R77; log 3). -/
theorem ObjectRec.timeUnitEnds_of_yield_out {r : ObjectRec} (held : r.isHeld = true) {y : YieldPending}
    (pending : r.yieldPending = some y) (one : y.remaining = 1) :
    r.timeUnitEnds = { r with owed := { settle := false, yield := true, tenure := true } } ∧
      r.timeUnitEnds.yieldFallsOut = true := by
  have owed : r.owe = { r with owed := { settle := false, yield := true, tenure := true } } := by
    rw [owe_of_held held, pending]; rfl
  have falls : r.owe.yieldFallsOut = true := by
    rw [yieldFallsOut_iff, owed]
    exact ⟨rfl, y, pending, one⟩
  rw [timeUnitEnds_of_expires ((expires_iff _).mpr (.inr (.inl falls)))]
  exact ⟨owed, falls⟩

/-- A held object with no yield to fall out, its tenure short of 65535 and due at its ceiling or its floor, owes its
advance (R70, R71; log 3). -/
theorem ObjectRec.timeUnitEnds_of_mark {r : ObjectRec} (held : r.isHeld = true)
    (noDeadline : ∀ y, r.yieldPending = some y → y.remaining ≠ 1) (notFull : r.tenure ≠ 65535#16)
    (mark : (r.ceiling ≠ 0 ∧ r.tenure + 1 = r.ceiling) ∨ r.tenure + 1 = r.floor.setWidth 16) :
    r.timeUnitEnds = { r with owed := { settle := false, yield := r.yieldPending.isSome, tenure := true } } ∧
      r.timeUnitEnds.settleFallsOut = false ∧ r.timeUnitEnds.yieldFallsOut = false ∧
      (r.timeUnitEnds.reachesCeiling = true ↔ r.ceiling ≠ 0 ∧ r.tenure + 1 = r.ceiling) ∧
      (r.timeUnitEnds.reachesFloor = true ↔ r.tenure + 1 = r.floor.setWidth 16) := by
  have owed := owe_of_held held
  have ceiling : r.owe.reachesCeiling = true ↔ r.ceiling ≠ 0 ∧ r.tenure + 1 = r.ceiling := by
    rw [reachesCeiling_iff, tenureRisesTo_iff, owed]
    exact ⟨fun ⟨set, _, _, there⟩ => ⟨set, there⟩, fun ⟨set, there⟩ => ⟨set, rfl, notFull, there⟩⟩
  have floor : r.owe.reachesFloor = true ↔ r.tenure + 1 = r.floor.setWidth 16 := by
    rw [reachesFloor, tenureRisesTo_iff, owed]
    exact ⟨fun ⟨_, _, there⟩ => there, fun there => ⟨rfl, notFull, there⟩⟩
  have expires : r.owe.expires = true :=
    (expires_iff _).mpr (.inr (.inr (mark.imp ceiling.mpr floor.mpr)))
  rw [timeUnitEnds_of_expires expires]
  refine ⟨owed, by rw [owed]; rfl, ?_, ceiling, floor⟩
  rw [Bool.eq_false_iff, ne_eq, yieldFallsOut_iff, owed]
  exact fun ⟨_, y, pending, one⟩ => noDeadline y pending one

/-- A held object at none of its marks advances (R68). -/
theorem ObjectRec.timeUnitEnds_of_held {r : ObjectRec} (held : r.isHeld = true) (owes : r.owed = Owed.none)
    (noDeadline : ∀ y, r.yieldPending = some y → y.remaining ≠ 1)
    (noMark : r.tenure = 65535#16 ∨
      ((r.ceiling = 0 ∨ r.tenure + 1 ≠ r.ceiling) ∧ r.tenure + 1 ≠ r.floor.setWidth 16)) :
    r.timeUnitEnds =
      { r with
        tenure := if r.tenure = 65535#16 then r.tenure else r.tenure + 1
        yieldPending := r.yieldPending.map fun y => { y with remaining := y.remaining - 1 } } := by
  have owed := owe_of_held held
  have noExpiry : r.owe.expires = false := by
    rw [Bool.eq_false_iff, ne_eq, expires_iff, settleFallsOut_iff, yieldFallsOut_iff, reachesCeiling_iff,
      reachesFloor, tenureRisesTo_iff, tenureRisesTo_iff, owed]
    rintro (⟨settle, -⟩ | ⟨-, y, pending, one⟩ | ⟨set, -, notFull, there⟩ | ⟨-, notFull, there⟩)
    · cases settle
    · exact noDeadline y pending one
    · obtain full | ⟨notSet | notThere, -⟩ := noMark
      · exact notFull full
      · exact set notSet
      · exact notThere there
    · obtain full | ⟨-, notThere⟩ := noMark
      · exact notFull full
      · exact notThere there
  rw [timeUnitEnds_of_not noExpiry, owed, advanceOwed]
  simp only [saturatingRise16, beq_iff_eq, if_true, ← owes]
  cases r.yieldPending <;> rfl

/-! ### Each entry -/

/-- An entry due has a wait remaining of 1 (R60; log 3). -/
theorem Entry.timeUnitEnds_of_one {e : Entry} (one : e.waitRemaining = some 1) :
    e.timeUnitEnds = { e with due := true } := by
  unfold timeUnitEnds
  rw [one]
  rfl

theorem State.mem_outstanding_object (s : State) (o : ObjNum) :
    Expiry.object o ∈ s.outstanding ↔ (s.obj o).owed.any = true := by
  simp [outstanding]

theorem State.mem_outstanding_entry (s : State) (o : ObjNum) (m : Master) :
    Expiry.entry o m ∈ s.outstanding ↔ s.entryDue o m = true := by
  rw [entryDue, List.any_eq_true]
  simp only [outstanding, List.mem_append, List.mem_map, List.mem_filter, List.mem_flatMap, Expiry.entry.injEq,
    reduceCtorEq, and_false, exists_false, false_or, Bool.and_eq_true, beq_iff_eq]
  constructor
  · rintro ⟨p, -, e, ⟨mem, due⟩, rfl, rfl⟩
    exact ⟨e, mem, rfl, due⟩
  · rintro ⟨e, mem, own, due⟩
    exact ⟨o, mem_allObjects o, e, ⟨mem, due⟩, rfl, own⟩

/-! ### The statement -/

/-- Settles O43: each object and each entry advances by itself, and what has come to an expiry is owed and outstanding. -/
theorem timeUnitEndAdvancesCounts : Obligations.TimeUnitEndAdvancesCounts := by
  intro s running noneOutstanding
  have taken : exec .timeUnitEnd s = .next (endTimeUnit s.deasserted) := by
    rw [exec_timeUnitEnd_of_running running, takeOutstanding_of_none (s := s.deasserted) noneOutstanding]
  refine ⟨_, taken, rfl, fun o => ?_, rfl, rfl, rfl, rfl, rfl, rfl⟩
  have owes : (s.obj o).owed = Owed.none := by
    have none := (s.outstanding_eq_nil_iff.mp noneOutstanding o).1
    simp only [Owed.any, Bool.or_eq_false_iff] at none
    obtain ⟨⟨settle, yield⟩, tenure⟩ := none
    cases owed : (s.obj o).owed
    rw [owed] at settle yield tenure
    simp only at settle yield tenure
    rw [settle, yield, tenure, Owed.none]
  have obj : (endTimeUnit s.deasserted).obj o = (s.obj o).timeUnitEnds.lineTimeUnitEnds := endTimeUnit_obj s.deasserted o
  have outstanding : Expiry.object o ∈ (endTimeUnit s.deasserted).outstanding ↔
      (s.obj o).timeUnitEnds.owed.any = true := by
    rw [State.mem_outstanding_object, obj]; rfl
  intro r line
  have spelled : line = r.line.map Entry.timeUnitEnds := by
    refine List.map_congr_left fun e _ => ?_
    unfold Entry.timeUnitEnds
    cases e.waitRemaining with
    | none => rfl
    | some n => simp only [beq_iff_eq]
  clear_value line
  subst spelled
  rw [obj]
  have keepsLine : r.timeUnitEnds.lineTimeUnitEnds =
      { r.timeUnitEnds with line := r.line.map Entry.timeUnitEnds } := by
    rw [ObjectRec.lineTimeUnitEnds, ObjectRec.timeUnitEnds_line]
  rw [keepsLine]
  refine ⟨rfl, fun e mem one => ?_, fun idle => ?_, fun n settling remaining above => ?_,
    fun settling remaining => ?_, fun y held pending one => ?_, fun held noDeadline notFull mark => ?_,
    fun held noDeadline noMark => ?_⟩
  · have due : (endTimeUnit s.deasserted).entryDue o e.master = true := by
      rw [State.entryDue, obj, keepsLine, List.any_eq_true]
      exact ⟨e.timeUnitEnds, List.mem_map_of_mem mem, by rw [Entry.timeUnitEnds_of_one one]; simp⟩
    exact ⟨due, (State.mem_outstanding_entry _ _ _).mpr due⟩
  · rw [ObjectRec.timeUnitEnds_of_idle idle owes]
  · rw [ObjectRec.timeUnitEnds_of_settling settling owes remaining above]
  · obtain ⟨ends, falls⟩ := ObjectRec.timeUnitEnds_of_settling_out settling remaining
    rw [ends] at falls outstanding ⊢
    exact ⟨rfl, remaining, falls, outstanding.mpr rfl⟩
  · obtain ⟨ends, falls⟩ := ObjectRec.timeUnitEnds_of_yield_out held pending one
    rw [ends] at falls outstanding ⊢
    exact ⟨rfl, pending, rfl, rfl, falls, outstanding.mpr rfl⟩
  · obtain ⟨ends, noSettle, noYield, ceiling, floor⟩ := ObjectRec.timeUnitEnds_of_mark held noDeadline notFull mark
    rw [ends] at noSettle noYield ceiling floor outstanding ⊢
    exact ⟨rfl, noSettle, noYield, ceiling, floor, outstanding.mpr (Bool.or_true _)⟩
  · rw [ObjectRec.timeUnitEnds_of_held held owes noDeadline noMark]

end Sys2Proof.Machine
end

section
/-! PROOFS. The deadline: its first stage, the cascades of the masters it bars, and the forced emptying (R77 to R80,
R98). -/

namespace Sys2Proof.Machine

/-! ### Cascades at an object that their masters do not hold -/

/-- A cascade takes the entries and the watch of its master out of an object that the master does not hold, and nothing
else of it (R97). -/
theorem cascade_obj_of_not_holder {n : Master} {s : State} {o : ObjNum}
    (notHolder : isMember (s.obj o).holders n = false) :
    (cascade n s).obj o =
      { s.obj o with
        line := (s.obj o).line.filter fun e => e.master ≠ n, watchers := removeMember (s.obj o).watchers n } := by
  have notices : (cascadeNotices n s).obj o = s.obj o := by simp [cascadeNotices]
  obtain ⟨held, -⟩ := (cascadeHold_step n).foldl ((cascadeNotices n s).heldBy_nodup n) (cascadeNotices n s)
  have stands := held o
  rw [if_neg (by rw [State.mem_heldBy, notices, notHolder]; exact Bool.false_ne_true), notices] at stands
  obtain ⟨waited, -⟩ := foldl_removeWaiter (cascadeWait_step n)
    (((cascadeNotices n s).heldBy n).foldl (cascadeHold n) (cascadeNotices n s))
  rw [cascade, (dropWatches_obj_mst n _).1 o, waited o, stands]
  rfl

/-- Cascades, one after another, at an object with no holder: the entries and the watches of their masters are gone. -/
theorem cascades_obj_of_no_holder {l : List Master} {s : State} {o : ObjNum} (noHolder : (s.obj o).holders = 0) :
    ∃ watching, (∀ k, isMember watching k = (isMember (s.obj o).watchers k && !decide (k ∈ l))) ∧
      (l.foldl (fun s h => cascade h s) s).obj o =
        { s.obj o with line := (s.obj o).line.filter fun e => e.master ∉ l, watchers := watching } := by
  induction l generalizing s with
  | nil => exact ⟨(s.obj o).watchers, by simp, by simp⟩
  | cons n rest ih =>
    have first := cascade_obj_of_not_holder (n := n) (s := s) (o := o) (by rw [noHolder]; exact isMember_zero n)
    rw [List.foldl_cons]
    generalize cascade n s = u at first
    obtain ⟨watching, members, obj⟩ := ih (s := u) (by rw [first]; exact noHolder)
    refine ⟨watching, fun k => ?_, ?_⟩
    · rw [members, first, isMember_removeMember]
      by_cases own : k = n <;> simp [own]
    · rw [obj, first]
      simp only [List.filter_filter, List.mem_cons, not_or, ← Bool.decide_and, and_comm]

/-- Each master cut off in turn is left with nothing (R97, R98). -/
theorem cascades_holdsNothing {l : List Master} {s : State} (apart : s.NoHolderWaits)
    (distinct : ∀ p, LineDistinct (s.obj p).line) {k : Master} (mem : k ∈ l) :
    (l.foldl (fun s h => cascade h s) s).HoldsNothing k := by
  induction l generalizing s with
  | nil => cases mem
  | cons n rest ih =>
    have cut := (cascade_cutOff n s apart).objects
    obtain ⟨apart', distinct'⟩ := cut.keeps apart distinct
    have nothing := cut.holdsNothing apart
    rw [List.foldl_cons]
    generalize cascade n s = u at apart' distinct' nothing
    obtain rfl | later := List.mem_cons.mp mem
    · exact (State.TableWork.foldl (fun s h => cascade_tableWork h s) rest u).holdsNothing nothing
    · exact ih apart' distinct' later

/-! ### The three stages -/

/-- The masters that a deadline bars (R79). -/
def deadlineBarred (o : ObjNum) (s : State) : List Master :=
  barredBetween s (deadlineFirstStage o s) (members (s.obj o).holders)

/-- The part before the last stage of a deadline: the holders are removed, and the masters barred are cut off. -/
def deadlineCascaded (o : ObjNum) (s : State) : State :=
  (deadlineBarred o s).foldl (fun s h => cascade h s) (deadlineFirstStage o s)

theorem deadline_eq_handover (o : ObjNum) (s : State) : deadline o s = handover true o (deadlineCascaded o s) := rfl

theorem deadlineCascaded_work (o : ObjNum) (s : State) : (deadlineFirstStage o s).ObjectWork (deadlineCascaded o s) :=
  State.ObjectWork.foldl (fun s h => cascade_work h s) _ _

theorem deadline_work_of_firstStage (o : ObjNum) (s : State) : (deadlineFirstStage o s).ObjectWork (deadline o s) :=
  (deadlineCascaded_work o s).trans (handover_work true o _)

/-- The object at the last stage of a deadline: emptied, the entries and the watches of the masters barred gone. -/
theorem deadlineCascaded_obj (o : ObjNum) (s : State) :
    ∃ watching, (∀ k, isMember watching k = (isMember (s.obj o).watchers k && !decide (k ∈ deadlineBarred o s))) ∧
      (deadlineCascaded o s).obj o =
        { s.obj o with
          holders := 0, tenure := 0, yieldPending := none, owed := Owed.none
          revokeCount := revokeCountAfter (members (s.obj o).holders).length (s.obj o).revokeCount
          line := (s.obj o).line.filter fun e => e.master ∉ deadlineBarred o s, watchers := watching } := by
  obtain ⟨first, -⟩ := deadlineFirstStage_spec o s
  obtain ⟨watching, members, obj⟩ := cascades_obj_of_no_holder (l := deadlineBarred o s) (s := deadlineFirstStage o s)
    (o := o) (by rw [first])
  rw [first] at members obj
  exact ⟨watching, members, obj⟩

/-- Each master's conduct after a deadline: a holder is charged 24, and its standing recomputed (R78). -/
theorem deadline_conduct (o : ObjNum) (s : State) (k : Master) :
    ((deadline o s).mst k).score.toNat =
        (if isMember (s.obj o).holders k then min 255 ((s.mst k).score.toNat + 24) else (s.mst k).score.toNat) ∧
      ((deadline o s).mst k).standing =
        (if isMember (s.obj o).holders k ∧ (s.mst k).standing ≠ .barred then
          standingOf ((deadline o s).mst k).score else (s.mst k).standing) ∧
      ((deadline o s).mst k).quota = (s.mst k).quota ∧ ((deadline o s).mst k).supervisor = (s.mst k).supervisor ∧
      ((deadline o s).mst k).attention = (s.mst k).attention := by
  obtain ⟨-, -, -, told⟩ := deadlineFirstStage_spec o s
  obtain ⟨score, standing, quota, supervisor, attention⟩ := (deadline_work_of_firstStage o s).conduct k
  obtain ⟨score', standing', quota', supervisor', attention'⟩ :=
    (s.mst k).deadlineRecords_conduct (members_nodup (s.obj o).holders) o k
  rw [told k] at score standing quota supervisor attention
  rw [score'] at score
  refine ⟨?_, ?_, quota.trans quota', supervisor.trans supervisor', attention.trans attention'⟩
  · simp only [score, mem_members]
    split
    · exact raiseScore_toNat _ _
    · rfl
  · simp only [standing, standing', score, mem_members]
    by_cases holder : isMember (s.obj o).holders k = true
    · by_cases barred : (s.mst k).standing = .barred
      · rw [if_pos holder, if_neg (fun both => both.2 barred), barred]; rfl
      · rw [if_pos holder, if_pos ⟨holder, barred⟩, if_pos holder]
        exact recomputeStanding_eq fun same => absurd same barred
    · rw [if_neg holder, if_neg (fun both => holder both.1)]

/-- The masters barred are the holders whose standing the deadline made BARRED (R79). -/
theorem mem_deadlineBarred (o : ObjNum) (s : State) (k : Master) :
    k ∈ deadlineBarred o s ↔ isMember (s.obj o).holders k = true ∧ (s.mst k).standing ≠ .barred ∧
      ((deadline o s).mst k).standing = .barred := by
  have standing := ((deadline_work_of_firstStage o s).conduct k).2.1
  rw [deadlineBarred, barredBetween, List.mem_filter, mem_members, ← standing]
  simp

/-- A deadline whose object has settle non-zero leaves it SETTLING (R40). -/
theorem deadline_of_settle {o : ObjNum} {s : State} (settles : (s.obj o).settle ≠ 0) :
    (deadline o s).obj o =
        { (deadlineCascaded o s).obj o with state := .settling, settleRemaining := some (s.obj o).settle } ∧
      (deadline o s).poolFree = (deadlineCascaded o s).poolFree ∧
      ∀ k, (deadline o s).mst k = (deadlineCascaded o s).mst k := by
  obtain ⟨watching, -, obj⟩ := deadlineCascaded_obj o s
  rw [deadline_eq_handover, handover, if_pos (by rw [obj]; simpa using settles)]
  exact ⟨by rw [enterSettling, State.modObj_obj_self, obj], rfl, fun _ => rfl⟩

/-- With settle 0 it is handed over; `r` is any record that agrees with the object's but for the fields that the first
stage clears (R41 to R46). -/
theorem deadline_of_no_settle {o : ObjNum} {s : State} (goesOn : (s.obj o).settle = 0) {r : ObjectRec}
    (emptied : (deadlineCascaded o s).obj o =
      { r with holders := 0, tenure := 0, yieldPending := none, owed := Owed.none }) :
    (deadline o s).obj o = r.handedOver (grantedEntries r.line) (remainingEntries r.line) ∧
      (deadline o s).poolFree = (deadlineCascaded o s).poolFree + (grantedEntries r.line).length ∧
      ∀ k, (deadline o s).mst k =
        ((deadlineCascaded o s).mst k).handedOver o r (grantedEntries r.line) (remainingEntries r.line) k := by
  obtain ⟨watching, -, obj⟩ := deadlineCascaded_obj o s
  rw [deadline_eq_handover, handover, if_neg (by rw [obj]; simpa using goesOn)]
  exact (handoverFromStep2_handedOver o _ r emptied).2

theorem deadlineCascaded_emptied (o : ObjNum) (s : State) :
    (deadlineCascaded o s).obj o =
      { (deadlineCascaded o s).obj o with holders := 0, tenure := 0, yieldPending := none, owed := Owed.none } := by
  obtain ⟨watching, -, obj⟩ := deadlineCascaded_obj o s
  rw [obj]

/-- A deadline that bars no one is its first stage and the handover (R80). -/
theorem deadlineCascaded_of_none {o : ObjNum} {s : State} (none : deadlineBarred o s = []) :
    deadlineCascaded o s = deadlineFirstStage o s := by
  rw [deadlineCascaded, none, List.foldl_nil]

theorem deadlineFirstStage_choices (o : ObjNum) (s : State) : (deadlineFirstStage o s).choices = s.choices := by
  have charge (h : Master) (u : State) : (deadlineChargeHolder h u).choices = u.choices := by
    unfold deadlineChargeHolder
    dsimp only
    split <;> rfl
  have remove (u : State) (h : Master) : (deadlineRemove o u h).choices = u.choices := by
    rw [deadlineRemove, charge, State.postSupervisors, State.postEach_choices]
    rfl
  have removes (hs : List Master) (u : State) : (hs.foldl (deadlineRemove o) u).choices = u.choices := by
    induction hs generalizing u with
    | nil => rfl
    | cons h hs ih => rw [List.foldl_cons, ih, remove]
  exact removes _ _

theorem deadline_sameDevices (o : ObjNum) (s : State) : s.SameDevices (deadline o s) := by
  have work := deadline_tableWork o s
  exact ⟨work.windows, work.log, work.timeBase, work.bus.resetAsserted,
    (deadline_work_of_firstStage o s).choices.trans (deadlineFirstStage_choices o s), work.bus.pending⟩

/-! ### A deadline, by the masters it bars -/

theorem decide_mem_deadlineBarred (o : ObjNum) (s : State) (k : Master) :
    decide (k ∈ deadlineBarred o s) =
      (isMember (s.obj o).holders k && (s.mst k).standing != .barred &&
        ((deadline o s).mst k).standing == .barred) := by
  rw [Bool.eq_iff_iff, decide_eq_true_iff, mem_deadlineBarred]
  simp [and_assoc]

theorem deadlineBarred_eq_filter (o : ObjNum) (s : State) :
    deadlineBarred o s =
      (members (s.obj o).holders).filter fun k =>
        isMember (s.obj o).holders k && (s.mst k).standing != .barred &&
          ((deadline o s).mst k).standing == .barred := by
  refine List.filter_congr fun k member => ?_
  rw [mem_members] at member
  rw [member, ((deadline_work_of_firstStage o s).conduct k).2.1, Bool.true_and]

theorem deadlineBarred_eq_nil {o : ObjNum} {s : State} (none : ∀ k, (isMember (s.obj o).holders k &&
    (s.mst k).standing != .barred && ((deadline o s).mst k).standing == .barred) = false) : deadlineBarred o s = [] := by
  refine List.eq_nil_iff_forall_not_mem.mpr fun k mem => ?_
  have barred := decide_eq_true mem
  rw [decide_mem_deadlineBarred, none k] at barred
  exact Bool.false_ne_true barred

theorem deadline_revokeCount (o : ObjNum) (s : State) :
    ((deadline o s).obj o).revokeCount =
      revokeCountAfter (members (s.obj o).holders).length (s.obj o).revokeCount := by
  obtain ⟨watching, -, obj⟩ := deadlineCascaded_obj o s
  by_cases settle : (s.obj o).settle = 0
  · rw [(deadline_of_no_settle settle (deadlineCascaded_emptied o s)).1, ObjectRec.handedOver_revokeCount, obj]
  · rw [(deadline_of_settle settle).1, obj]

/-- A deadline that bars no one changes no other object. -/
theorem deadline_only_of_none {o : ObjNum} {s : State} (none : deadlineBarred o s = []) :
    State.OnlyObject o s (deadline o s) := by
  obtain ⟨-, only, -⟩ := deadlineFirstStage_spec o s
  rw [deadline_eq_handover, deadlineCascaded_of_none none]
  exact only.trans (handover_only true o _)

/-- At the last stage of a deadline that bars no one the masters have the records of the first. -/
theorem deadlineCascaded_told {o : ObjNum} {s : State} (none : deadlineBarred o s = []) :
    (deadlineCascaded o s).poolFree = s.poolFree ∧
      ∀ k, (deadlineCascaded o s).mst k = (s.mst k).deadlineRecords o (members (s.obj o).holders) k := by
  obtain ⟨-, -, pool, told⟩ := deadlineFirstStage_spec o s
  rw [deadlineCascaded_of_none none]
  exact ⟨pool, told⟩

/-- When no holder waits for the object, the cascades leave its line. -/
theorem deadlineCascaded_line {o : ObjNum} {s : State}
    (apart : ∀ e ∈ (s.obj o).line, isMember (s.obj o).holders e.master = false) :
    (s.obj o).line.filter (fun e => e.master ∉ deadlineBarred o s) = (s.obj o).line := by
  refine List.filter_eq_self.mpr fun e mem => decide_eq_true fun barred => ?_
  exact absurd ((mem_deadlineBarred o s e.master).mp barred).1 (by rw [apart e mem]; exact Bool.false_ne_true)

/-- The first stage keeps the two facts about lines that a cascade needs. -/
theorem deadlineFirstStage_keeps {o : ObjNum} {s : State} (apart : s.NoHolderWaits)
    (distinct : ∀ p, LineDistinct (s.obj p).line) :
    (deadlineFirstStage o s).NoHolderWaits ∧ ∀ p, LineDistinct ((deadlineFirstStage o s).obj p).line := by
  obtain ⟨obj, only, -⟩ := deadlineFirstStage_spec o s
  refine ⟨fun p => ?_, fun p => ?_⟩
  · by_cases own : p = o
    · subst own; rw [obj]; exact fun e _ => isMember_zero e.master
    · rw [only p own]; exact apart p
  · by_cases own : p = o
    · subst own; rw [obj]; exact distinct p
    · rw [only p own]; exact distinct p

/-! ### The queue of a single holder -/

theorem members_single : ∀ h : Master, members (single h) = [h] := by decide

/-- A charge that leaves the standing posts nothing (R92). -/
theorem MasterRec.deadlineCharged_queue {x : MasterRec} (same : x.deadlineCharged.standing = x.standing) :
    x.deadlineCharged.queue = x.queue := by
  have standing := x.deadlineCharged_conduct.2.1
  rw [deadlineCharged_eq]
  dsimp only
  rw [if_pos (by simp [withScore, ← standing, same])]
  rfl

/-- After the deadline of an object with one holder, whose standing it leaves: REVOKED to the holder and
FAULT_NOTICE(DEADLINE) to a supervisor (R78). -/
theorem MasterRec.deadlineRecords_single_queue {x : MasterRec} {h k : Master} {o : ObjNum}
    (same : k = h → (x.deadlineRecords o [h] k).standing = x.standing) :
    (x.deadlineRecords o [h] k).queue =
      let removed := if k = h then x.post (.revoked o .deadline) else x
      (if x.supervisor then removed.post (.faultDeadline h o) else removed).queue := by
  change (x.deadlineRecord o h k).queue = _
  change k = h → (x.deadlineRecord o h k).standing = x.standing at same
  unfold deadlineRecord at same ⊢
  by_cases own : k = h
  · have same := same own
    simp only [own, if_true, post_supervisor] at same ⊢
    refine deadlineCharged_queue (same.trans ?_)
    split <;> simp
  · simp only [own, if_false]

end Sys2Proof.Machine
end

section
/-! PROOFS. The deadline: what it leaves, settled or handed over (R78 to R80). -/

namespace Sys2Proof.Machine

/-- With settle non-zero and no holder in the line, the object is left SETTLING with its line (R40, R78). -/
theorem deadline_obj_of_settle {o : ObjNum} {s : State} (settles : (s.obj o).settle ≠ 0)
    (apart : ∀ e ∈ (s.obj o).line, isMember (s.obj o).holders e.master = false) :
    ∃ watching, (∀ k, isMember watching k = (isMember (s.obj o).watchers k && !(isMember (s.obj o).holders k &&
        (s.mst k).standing != .barred && ((deadline o s).mst k).standing == .barred))) ∧
      (deadline o s).obj o =
        { s.obj o with
          state := .settling, holders := 0, tenure := 0, yieldPending := none
          settleRemaining := some (s.obj o).settle, owed := Owed.none
          revokeCount := ((deadline o s).obj o).revokeCount, watchers := watching } := by
  obtain ⟨watching, watchers, obj⟩ := deadlineCascaded_obj o s
  refine ⟨watching, fun k => by rw [watchers, decide_mem_deadlineBarred], ?_⟩
  rw [deadline_revokeCount, (deadline_of_settle settles).1, obj, deadlineCascaded_line apart]

/-- With settle 0 and no holder in the line, it is handed over to its own line (R41 to R46, R78). -/
theorem deadline_of_no_settle_of_apart {o : ObjNum} {s : State} (goesOn : (s.obj o).settle = 0)
    (apart : ∀ e ∈ (s.obj o).line, isMember (s.obj o).holders e.master = false) :
    ∃ batch left watching, BatchOf (s.obj o).line batch left ∧
      (∀ k, isMember watching k = (isMember (s.obj o).watchers k && !(isMember (s.obj o).holders k &&
        (s.mst k).standing != .barred && ((deadline o s).mst k).standing == .barred))) ∧
      (deadline o s).obj o =
        ObjectRec.handedOver
          { s.obj o with revokeCount := ((deadline o s).obj o).revokeCount, watchers := watching } batch left ∧
      ((∀ k, (isMember (s.obj o).holders k && (s.mst k).standing != .barred &&
          ((deadline o s).mst k).standing == .barred) = false) →
        (deadline o s).poolFree = s.poolFree + batch.length ∧
          ∀ k, (deadline o s).mst k =
            ((s.mst k).deadlineRecords o (members (s.obj o).holders) k).handedOver o (s.obj o) batch left k) := by
  obtain ⟨watching, watchers, obj⟩ := deadlineCascaded_obj o s
  rw [deadlineCascaded_line apart] at obj
  obtain ⟨handed, pool, mst⟩ := deadline_of_no_settle goesOn (r := { s.obj o with
    revokeCount := revokeCountAfter (members (s.obj o).holders).length (s.obj o).revokeCount, watchers := watching }) obj
  refine ⟨_, _, watching, batchOf_grantedEntries _, fun k => by rw [watchers, decide_mem_deadlineBarred], ?_,
    fun none => ?_⟩
  · rw [deadline_revokeCount]
    exact handed
  · have noneBarred := deadlineBarred_eq_nil none
    obtain ⟨poolTold, told⟩ := deadlineCascaded_told noneBarred
    have same : watching = (s.obj o).watchers := masterSet_ext fun k => by rw [watchers, noneBarred]; simp
    refine ⟨pool.trans (by rw [poolTold]), fun k => (mst k).trans ?_⟩
    rw [told, same]
    rfl

/-- The masters barred are cut off in turn between the first stage and the handover, and hold nothing after (R79). -/
theorem deadline_inTurn {o : ObjNum} {s : State} (apart : s.NoHolderWaits)
    (distinct : ∀ p, LineDistinct (s.obj p).line) :
    (∀ k, (isMember (s.obj o).holders k && (s.mst k).standing != .barred &&
        ((deadline o s).mst k).standing == .barred) = true → (deadline o s).HoldsNothing k) ∧
      ∃ u v : State, State.OnlyObject o s u ∧
        u.obj o =
          { s.obj o with
            holders := 0, tenure := 0, yieldPending := none, owed := Owed.none
            revokeCount := ((deadline o s).obj o).revokeCount } ∧
        u.poolFree = s.poolFree ∧
        (∀ k, u.mst k = (s.mst k).deadlineRecords o (members (s.obj o).holders) k) ∧
        CascadesInTurn ((members (s.obj o).holders).filter fun k => isMember (s.obj o).holders k &&
          (s.mst k).standing != .barred && ((deadline o s).mst k).standing == .barred) u v ∧
        State.OnlyObject o v (deadline o s) ∧
        ((s.obj o).settle ≠ 0 →
          (deadline o s).obj o = { v.obj o with state := .settling, settleRemaining := some (s.obj o).settle } ∧
            (deadline o s).poolFree = v.poolFree ∧ ∀ k, (deadline o s).mst k = v.mst k) ∧
        ((s.obj o).settle = 0 → ∃ batch left, BatchOf (v.obj o).line batch left ∧
          (deadline o s).obj o = (v.obj o).handedOver batch left ∧
          (deadline o s).poolFree = v.poolFree + batch.length ∧
          ∀ k, (deadline o s).mst k = (v.mst k).handedOver o (v.obj o) batch left k) := by
  obtain ⟨apart', distinct'⟩ := deadlineFirstStage_keeps (o := o) apart distinct
  obtain ⟨first, only, pool, told⟩ := deadlineFirstStage_spec o s
  refine ⟨fun k barred => ?_, deadlineFirstStage o s, deadlineCascaded o s, only, ?_, pool, told, ?_,
    handover_only true o _, deadline_of_settle, fun goesOn => ?_⟩
  · rw [← decide_mem_deadlineBarred, decide_eq_true_iff] at barred
    exact (handover_tableWork true o _).holdsNothing (cascades_holdsNothing apart' distinct' barred)
  · rw [deadline_revokeCount]
    exact first
  · rw [← deadlineBarred_eq_filter]
    exact cascades_inTurn _ _ apart' distinct'
  · exact ⟨_, _, batchOf_grantedEntries _, deadline_of_no_settle goesOn (deadlineCascaded_emptied o s)⟩

/-- With settle 0 and an empty line it is left FREE (R41). -/
theorem deadline_of_no_line {o : ObjNum} {s : State} (goesOn : (s.obj o).settle = 0) (noLine : (s.obj o).line = []) :
    ((deadline o s).obj o).state = .free ∧ ((deadline o s).obj o).holders = 0 ∧ ((deadline o s).obj o).tenure = 0 ∧
      ((deadline o s).obj o).yieldPending = none := by
  obtain ⟨watching, -, obj⟩ := deadlineCascaded_obj o s
  have empty : ((deadlineCascaded o s).obj o).line = [] := by rw [obj, noLine]; rfl
  rw [(deadline_of_no_settle goesOn (deadlineCascaded_emptied o s)).1, ObjectRec.handedOver_of_no_line empty]
  exact ⟨rfl, rfl, rfl, rfl⟩

/-- The records of a deadline that leaves its one holder's standing and enters SETTLING (R78). -/
theorem deadline_queue_of_single {o : ObjNum} {s : State} {h : Master} (one : (s.obj o).holders = single h)
    (same : ((deadline o s).mst h).standing = (s.mst h).standing) (settles : (s.obj o).settle ≠ 0) (k : Master) :
    ((deadline o s).mst k).queue =
      let removed := if k = h then (s.mst k).post (.revoked o .deadline) else s.mst k
      (if (s.mst k).supervisor then removed.post (.faultDeadline h o) else removed).queue := by
  have none : deadlineBarred o s = [] := by
    refine List.eq_nil_iff_forall_not_mem.mpr fun n barred => ?_
    obtain ⟨holder, before, after⟩ := (mem_deadlineBarred o s n).mp barred
    rw [one, isMember_single, decide_eq_true_iff] at holder
    subst holder
    exact before (same.symm.trans after)
  have told (n : Master) : (deadline o s).mst n = (s.mst n).deadlineRecords o [h] n := by
    rw [(deadline_of_settle settles).2.2, (deadlineCascaded_told none).2, one, members_single]
  rw [told]
  refine MasterRec.deadlineRecords_single_queue fun own => ?_
  subst own
  rw [← told]
  exact same

/-- Settles O44: each clause is that of `deadline` on the part with its answer taken down. -/
theorem deadlineRevokesAndCharges : Obligations.DeadlineRevokesAndCharges := by
  intro o s fallsOut
  have conduct := deadline_conduct o s.deasserted
  refine ⟨deadline o s.deasserted, exec_deadline_of_fallsOut fallsOut, fun k => (conduct k).1, fun k => (conduct k).2.1, ?_,
    fun settles => ?_, deadline_of_no_line (s := s.deasserted), fun k => (conduct k).2.2, fun spared => ?_,
    fun h => deadline_queue_of_single (s := s.deasserted), ⟨?_, deadline_obj_of_settle (s := s.deasserted),
      deadline_inTurn (s := s.deasserted), deadline_of_no_settle_of_apart (s := s.deasserted)⟩,
    deadline_poolSum o s.deasserted, (deadline_tableWork o s.deasserted).bus.ports, ?_⟩
  · rw [deadline_revokeCount]
    exact revokeCountAfter_toNat _ _
  · obtain ⟨watching, -, obj⟩ := deadlineCascaded_obj o s.deasserted
    rw [(deadline_of_settle (s := s.deasserted) settles).1, obj]
    exact ⟨rfl, rfl, rfl, rfl, rfl⟩
  · refine deadline_only_of_none (s := s.deasserted) (List.eq_nil_iff_forall_not_mem.mpr fun k barred => ?_)
    obtain ⟨holder, before, after⟩ := (mem_deadlineBarred o s.deasserted k).mp barred
    exact (spared k holder).elim (fun same => before (same.symm.trans after)) fun notBarred => notBarred after
  · intro settles none
    obtain ⟨-, pool, mst⟩ := deadline_of_settle (s := s.deasserted) settles
    obtain ⟨poolTold, told⟩ := deadlineCascaded_told (deadlineBarred_eq_nil (s := s.deasserted) none)
    exact ⟨pool.trans poolTold, fun k => (mst k).trans (told k)⟩
  · obtain ⟨windows, log, timeBase, resetAsserted, choices, pending⟩ := deadline_sameDevices o s.deasserted
    exact ⟨windows, log, timeBase, resetAsserted, choices, pending⟩

end Sys2Proof.Machine
end

section
/-! PROOFS. Words put together from fields: what a field read, a bit read and a mask make of `put`. -/

namespace Sys2Proof.Machine

/-! ### One field -/

theorem getLsbD_put {n lo : Nat} (x : BitVec n) (i : Nat) :
    (put lo x).getLsbD i = (decide (i < 32) && decide (lo ≤ i) && x.getLsbD (i - lo)) := by
  rw [put, BitVec.getLsbD_shiftLeft, BitVec.getLsbD_setWidth]
  by_cases above : lo ≤ i
  · have notBelow : ¬ i < lo := by omega
    by_cases inside : i < 32
    · simp [above, notBelow, inside, show i - lo < 32 by omega]
    · simp [inside]
  · simp [above]

/-- A field placed in a word is read back from it. -/
@[simp] theorem extractLsb'_put_self {n lo : Nat} (fits : lo + n ≤ 32) (x : BitVec n) :
    (put lo x).extractLsb' lo n = x := by
  refine BitVec.eq_of_getLsbD_eq fun i inside => ?_
  rw [BitVec.getLsbD_extractLsb', getLsbD_put]
  simp [inside, show lo + i < 32 by omega]

/-- A field placed elsewhere reads 0 here. -/
@[simp] theorem extractLsb'_put_of_disjoint {n lo k at' : Nat} (apart : lo + n ≤ at' ∨ at' + k ≤ lo) (x : BitVec n) :
    (put lo x).extractLsb' at' k = 0 := by
  refine BitVec.eq_of_getLsbD_eq fun i inside => ?_
  rw [BitVec.getLsbD_extractLsb', getLsbD_put]
  by_cases above : lo ≤ at' + i
  · simp [BitVec.getLsbD_of_ge x (at' + i - lo) (by omega)]
  · simp [above]

@[simp] theorem getElem_put_of_disjoint {n lo i : Nat} {inside : i < 32} (apart : lo + n ≤ i ∨ i < lo) (x : BitVec n) :
    (put lo x)[i] = false := by
  rw [← BitVec.getLsbD_eq_getElem, getLsbD_put]
  by_cases above : lo ≤ i
  · simp [BitVec.getLsbD_of_ge x (i - lo) (by omega)]
  · simp [above]

/-- A one-bit field placed in a word is read back from it. -/
@[simp] theorem getElem_put_self {lo : Nat} {inside : lo < 32} (x : BitVec 1) : (put lo x)[lo] = x[0] := by
  rw [← BitVec.getLsbD_eq_getElem, getLsbD_put]
  simp [inside]

/-- A mask leaves of a field what it leaves of the bits in the field's place. -/
theorem put_and {n lo : Nat} (x : BitVec n) (mask : Word) :
    put lo x &&& mask = put lo (x &&& mask.extractLsb' lo n) := by
  refine BitVec.eq_of_getLsbD_eq fun i below => ?_
  rw [BitVec.getLsbD_and, getLsbD_put, getLsbD_put, BitVec.getLsbD_and, BitVec.getLsbD_extractLsb']
  by_cases above : lo ≤ i
  · by_cases inside : i - lo < n
    · simp [inside, Nat.add_sub_of_le above, Bool.and_assoc]
    · simp [BitVec.getLsbD_of_ge x (i - lo) (by omega)]
  · simp [above]

/-- A field read from a word and put back in its place is the word under the field's mask. -/
theorem put_extractLsb' {n : Nat} (lo : Nat) (w : Word) :
    put lo (w.extractLsb' lo n) = w &&& put lo (BitVec.allOnes n) := by
  rw [BitVec.and_comm, put_and, BitVec.allOnes_and]

@[simp] theorem put_zero (n lo : Nat) : put lo 0#n = 0#32 := by simp [put]

/-- A number in the lowest bits of a word. -/
theorem num_zero (n k : Nat) : num n 0 k = BitVec.ofNat 32 (k % 2 ^ n) := by
  refine BitVec.eq_of_toNat_eq ?_
  simp [num, put, BitVec.toNat_setWidth]

end Sys2Proof.Machine
end

section
/-! PROOFS. The words that a window read returns, field by field (R161 to R170, Tables 10-4 to 10-6). -/

namespace Sys2Proof.Machine

/-! ### Views -/

/-- VIEW_0 of an object (R164). -/
theorem objectView_word0 (r : ObjectRec) :
    (objectView r).word0.extractLsb' 31 1 = 1#1 ∧ (objectView r).word0.extractLsb' 29 2 = 0#2 ∧
      (objectView r).word0.extractLsb' 26 3 = stateCode r.state ∧
      (objectView r).word0.getLsbD 25 = (r.objClass == .shareable) ∧
      (objectView r).word0.getLsbD 24 = r.contentionYield ∧
      (objectView r).word0.extractLsb' 20 4 = BitVec.ofNat 4 r.line.length ∧
      (objectView r).word0.extractLsb' 12 8 = r.holders ∧ (objectView r).word0.extractLsb' 4 8 = r.watchers ∧
      (objectView r).word0.getLsbD 3 = r.yieldPending.isSome ∧
      (objectView r).word0.getLsbD 2 = yieldReasonField r.yieldPending ∧
      (objectView r).word0.extractLsb' 0 2 = 0#2 := by
  simp [objectView, viewHead, flag, num, viewKindCode, BitVec.extractLsb'_or]

/-- VIEW_1 to VIEW_3 of an object (R164). -/
theorem objectView_rest (r : ObjectRec) :
    (objectView r).word1.extractLsb' 16 16 = r.tenure ∧
      (objectView r).word1.extractLsb' 8 8 = yieldRemainingField r.yieldPending ∧
      (objectView r).word1.extractLsb' 0 8 = r.settleRemaining.getD 0 ∧
      (objectView r).word2.extractLsb' 16 16 = r.ceiling ∧ (objectView r).word2.extractLsb' 8 8 = r.floor ∧
      (objectView r).word2.extractLsb' 0 8 = r.allowance ∧ (objectView r).word3.extractLsb' 16 16 = r.grantCount ∧
      (objectView r).word3.extractLsb' 8 8 = r.revokeCount ∧ (objectView r).word3.extractLsb' 0 8 = r.settle := by
  simp [objectView, BitVec.extractLsb'_or]

/-- The fields of an absent yield read 0 (R164). -/
theorem yieldReasonField_iff (pending : Option YieldPending) :
    yieldReasonField pending = true ↔ ∃ y, pending = some y ∧ y.reason = .ceiling := by
  cases pending <;> simp [yieldReasonField, yieldReasonBit]

/-- The entry at a position is the one so far from the head, counted from 1 (R53). -/
theorem entryAt_of_inside {r : ObjectRec} {position : BitVec 4} {e : Entry} (counted : position ≠ 0)
    (inside : r.line[position.toNat - 1]? = some e) : entryAt r.line position = some e := by
  rw [entryAt, if_neg (by simpa using counted), List.head?_drop, inside]

theorem entryAt_of_outside {r : ObjectRec} {position : BitVec 4}
    (outside : position = 0 ∨ r.line.length < position.toNat) : entryAt r.line position = none := by
  rw [entryAt]
  split
  · rfl
  · rename_i counted
    rw [List.head?_drop, List.getElem?_eq_none_iff]
    rcases outside with rfl | beyond
    · simp at counted
    · omega

/-- The view of a line entry (R165). -/
theorem lineEntryView_fields (index : BitVec 6) (position : BitVec 4) (r : ObjectRec) :
    (lineEntryView index position r).word0.extractLsb' 29 2 = 1#2 ∧
      (lineEntryView index position r).word0.extractLsb' 23 6 = index ∧
      (lineEntryView index position r).word0.extractLsb' 19 4 = position ∧
      (lineEntryView index position r).word2 = num 4 0 r.line.length ∧ (lineEntryView index position r).word3 = 0 := by
  unfold lineEntryView
  split <;> simp [viewHead, flag, num, viewKindCode, BitVec.extractLsb'_or]

theorem lineEntryView_of_entry {index : BitVec 6} {position : BitVec 4} {r : ObjectRec} {e : Entry}
    (entry : entryAt r.line position = some e) :
    (lineEntryView index position r).word0.getLsbD 31 = true ∧
      (lineEntryView index position r).word0.extractLsb' 16 3 = BitVec.ofNat 3 e.master.val ∧
      ((lineEntryView index position r).word0.getLsbD 15 = true ↔ e.mode = .shared) ∧
      (lineEntryView index position r).word0.extractLsb' 11 4 = e.priority ∧
      (lineEntryView index position r).word0.getLsbD 10 = e.waitRemaining.isSome ∧
      (lineEntryView index position r).word0.extractLsb' 0 10 = 0#10 ∧
      (lineEntryView index position r).word1.extractLsb' 16 16 = e.waitRemaining.getD 0 ∧
      (lineEntryView index position r).word1.extractLsb' 8 8 = 0#8 ∧
      (lineEntryView index position r).word1.extractLsb' 0 8 = e.tag := by
  simp [lineEntryView, entry, viewHead, flag, num, viewKindCode, BitVec.extractLsb'_or, modeBit]

theorem lineEntryView_of_none {index : BitVec 6} {position : BitVec 4} {r : ObjectRec}
    (none : entryAt r.line position = none) :
    (lineEntryView index position r).word0.getLsbD 31 = false ∧
      (lineEntryView index position r).word0.extractLsb' 0 19 = 0#19 ∧
      (lineEntryView index position r).word1 = 0 := by
  simp [lineEntryView, none, viewHead, flag, viewKindCode, BitVec.extractLsb'_or]

/-- The head of a valid view takes its three bits (Table 10-5). -/
theorem extractLsb'_viewHead (kind : ViewKind) : (viewHead true kind).extractLsb' 29 3 = 1#1 ++ viewKindCode kind := by
  cases kind <;> decide

/-- The view of a master (R166). -/
theorem masterView_fields (s : State) (k : Master) :
    (masterView s k).word0.extractLsb' 29 3 = 6#3 ∧ (masterView s k).word0.extractLsb' 26 3 = BitVec.ofNat 3 k.val ∧
      (masterView s k).word0.extractLsb' 24 2 = 0#2 ∧ (masterView s k).word0.extractLsb' 16 8 = (s.mst k).score ∧
      (masterView s k).word0.extractLsb' 10 6 = (s.mst k).quota ∧
      (masterView s k).word0.extractLsb' 4 6 = BitVec.ofNat 6 (s.waitsHeld k) ∧
      (masterView s k).word0.getLsbD 3 = (s.mst k).supervisor ∧
      (masterView s k).word0.getLsbD 2 = (s.mst k).attention ∧
      (masterView s k).word0.getLsbD 1 = (s.mst k).overflow ∧ (masterView s k).word0.getLsbD 0 = false ∧
      (masterView s k).word1.extractLsb' 24 8 = (s.mst k).nextSeq ∧
      (masterView s k).word1.extractLsb' 20 4 = BitVec.ofNat 4 (s.mst k).queue.length ∧
      (masterView s k).word1.getLsbD 19 = s.atn k ∧ (masterView s k).word1.extractLsb' 0 19 = 0#19 ∧
      (masterView s k).word2 = 0 ∧ (masterView s k).word3 = 0 := by
  have head : (masterView s k).word0.extractLsb' 29 3 = 6#3 := by
    simp [masterView, BitVec.extractLsb'_or, extractLsb'_viewHead, flag, num, viewKindCode]
  refine ⟨head, ?_⟩
  simp [masterView, viewHead, flag, num, viewKindCode, BitVec.extractLsb'_or]

/-- The view of a guard window (R167). -/
theorem guardView_fields (s : State) (i : WindowNum) :
    (guardView s i).word0.extractLsb' 29 3 = 7#3 ∧ (guardView s i).word0.extractLsb' 25 4 = BitVec.ofNat 4 i.val ∧
      (guardView s i).word0.getLsbD 24 = (s.win i).enable ∧
      ((guardView s i).word0.getLsbD 23 = true ↔ (s.win i).kind = .accessGuard) ∧
      ((guardView s i).word0.getLsbD 22 = true ↔ (s.win i).action = .deny) ∧
      (guardView s i).word0.getLsbD 21 = s.windowActive (s.win i) ∧ (guardView s i).word0.getLsbD 20 = false ∧
      (guardView s i).word0.extractLsb' 0 20 = (s.win i).base ∧ (guardView s i).word1.extractLsb' 26 6 = 0#6 ∧
      (guardView s i).word1.extractLsb' 20 6 = BitVec.ofNat 6 (s.win i).object.val ∧
      (guardView s i).word1.extractLsb' 0 20 = (s.win i).limit ∧ (guardView s i).word2 = 0 ∧
      (guardView s i).word3 = 0 := by
  have head : (guardView s i).word0.extractLsb' 29 3 = 7#3 := by
    simp [guardView, BitVec.extractLsb'_or, extractLsb'_viewHead, flag, num, viewKindCode]
  refine ⟨head, ?_⟩
  simp [guardView, viewHead, flag, num, viewKindCode, BitVec.extractLsb'_or]

/-! ### Status words -/

/-- RESULT (R161). -/
theorem resultWord_fields (r : ResultRec) :
    (resultWord r).extractLsb' 0 3 = outcomeCode r.outcome ∧ (resultWord r).extractLsb' 3 5 = reasonField r.reason ∧
      (resultWord r).extractLsb' 8 6 = r.echo ∧ (resultWord r).extractLsb' 14 4 = r.position ∧
      (resultWord r).extractLsb' 18 7 = r.count ∧ (resultWord r).extractLsb' 25 7 = 0#7 := by
  simp [resultWord, BitVec.extractLsb'_or]

/-- SELF_STATUS (R170). -/
theorem selfStatus_fields (s : State) (m : Master) :
    (selfStatus s m).extractLsb' 0 8 = (s.mst m).score ∧ (selfStatus s m).extractLsb' 8 6 = (s.mst m).quota ∧
      (selfStatus s m).extractLsb' 14 6 = BitVec.ofNat 6 (s.waitsHeld m) ∧
      (selfStatus s m).getLsbD 20 = (s.mst m).supervisor ∧ (selfStatus s m).getLsbD 21 = (s.mst m).attention ∧
      (selfStatus s m).getLsbD 22 = (s.mst m).overflow ∧ (selfStatus s m).extractLsb' 23 8 = (s.mst m).nextSeq ∧
      (selfStatus s m).getLsbD 31 = false := by
  simp [selfStatus, flag, num, BitVec.extractLsb'_or]

/-- VIEW_SELECT (R162). -/
theorem viewSelectWord_fields (v : ViewSelect) :
    (viewSelectWord v).extractLsb' 16 2 = viewKindCode v.kind ∧ (viewSelectWord v).extractLsb' 8 6 = v.index ∧
      (viewSelectWord v).extractLsb' 0 4 = v.position ∧ viewSelectWord v &&& ~~~0x00033F0F#32 = 0 := by
  simp [viewSelectWord, BitVec.extractLsb'_or, BitVec.and_or_distrib_right, put_and]

/-- TIME_BASE_STATUS (R170). -/
theorem timeBaseStatus_fields (t : TimeBase) :
    (timeBaseStatus t).extractLsb' 0 16 = t.divider ∧
      ((timeBaseStatus t).getLsbD 16 = true ↔ t.runState = .running) ∧
      (timeBaseStatus t).extractLsb' 17 15 = 0#15 := by
  simp [timeBaseStatus, flag, BitVec.extractLsb'_or]

/-- Past POOL_STATUS every offset is a command port or unassigned, and reads 0 (R157). -/
theorem readWindow_of_beyond {s : State} {m : Master} {offset : WindowOffset} (beyond : 0x48 ≤ 4 * offset.toNat) :
    s.readWindow m offset = 0 := by
  have past : 0x48 ≤ byteOffset offset := beyond
  unfold State.readWindow
  split <;> simp_all

/-! ### Head words -/

/-- EVENT_HEAD_0 and EVENT_HEAD_1 of a queue that is not empty (R168). -/
theorem eventHead_fields (e : EventRecord) (rest : List EventRecord) :
    (eventHead0 (e :: rest)).getLsbD 31 = true ∧ (eventHead0 (e :: rest)).extractLsb' 27 4 = e.notice.kindCode ∧
      (eventHead0 (e :: rest)).extractLsb' 24 3 = e.notice.detailCode ∧
      (eventHead0 (e :: rest)).extractLsb' 16 8 = e.seq ∧
      (eventHead0 (e :: rest)).getLsbD 15 = e.notice.object?.isSome ∧ (eventHead0 (e :: rest)).getLsbD 14 = false ∧
      (∀ o, e.notice.object? = some o → (eventHead0 (e :: rest)).extractLsb' 8 6 = BitVec.ofNat 6 o.val) ∧
      (e.notice.object? = none → (eventHead0 (e :: rest)).extractLsb' 8 6 = 0#6) ∧
      (eventHead0 (e :: rest)).getLsbD 7 = false ∧
      (eventHead0 (e :: rest)).extractLsb' 4 3 = BitVec.ofNat 3 e.notice.otherMaster ∧
      (eventHead0 (e :: rest)).extractLsb' 0 4 = BitVec.ofNat 4 (rest.length + 1) ∧
      (eventHead1 (e :: rest)).extractLsb' 16 16 = 0#16 ∧ (eventHead1 (e :: rest)).extractLsb' 8 8 = e.notice.tag ∧
      (eventHead1 (e :: rest)).extractLsb' 0 8 = e.notice.value := by
  simp +contextual [eventHead0, eventHead1, flag, num, BitVec.extractLsb'_or]

/-- LOG_HEAD_0 to LOG_HEAD_2 of a log that is not empty (R169). -/
theorem logHead_fields (l : LogRecord) (rest : List LogRecord) :
    (logHead0 (l :: rest)).getLsbD 31 = true ∧ (logHead0 (l :: rest)).extractLsb' 26 5 = BitVec.ofNat 5 (rest.length + 1) ∧
      (logHead0 (l :: rest)).extractLsb' 22 4 = BitVec.ofNat 4 l.window.val ∧
      (logHead0 (l :: rest)).extractLsb' 16 6 = BitVec.ofNat 6 l.object.val ∧
      ((logHead0 (l :: rest)).getLsbD 15 = true ↔ l.dir = .write) ∧
      ((logHead0 (l :: rest)).getLsbD 14 = true ↔ l.cause = .sharedWrite) ∧
      (logHead0 (l :: rest)).extractLsb' 11 3 = stateCode l.objState ∧
      (logHead0 (l :: rest)).extractLsb' 8 3 = BitVec.ofNat 3 l.master.val ∧
      (logHead0 (l :: rest)).extractLsb' 0 8 = l.suppressed ∧ (logHead1 (l :: rest)).extractLsb' 2 30 = l.addr ∧
      (logHead1 (l :: rest)).extractLsb' 0 2 = 0#2 ∧ (logHead2 (l :: rest)).extractLsb' 24 8 = 0#8 ∧
      (logHead2 (l :: rest)).extractLsb' 0 24 = l.stamp := by
  simp [logHead0, logHead1, logHead2, flag, num, BitVec.extractLsb'_or]

/-! ### Codes -/

/-- The standing of a score is its two highest bits (R92, Table 10-4). -/
theorem standingCode_standingOf : ∀ score : BitVec 8,
    standingCode (standingOf score) = (score.extractLsb' 6 2).setWidth 3 := by decide

/-- The event records as fields (Table 6-1, Table 10-6). -/
theorem notice_fields (o : ObjNum) (mode : Mode) (tag : BitVec 8) (reason : YieldReason) (value : BitVec 8) (k : Master)
    (revoked : RevokeCause) (ended : WaitEndCause) (standing : Standing) :
    [Notice.granted o mode tag, .yieldAsked o reason value, .revoked o revoked, .waitEnded o ended, .freed o,
        .watchEnded o, .standing standing value, .cleared k, .faultDeadline k o, .faultBarred k, .logPending].map
        (fun n => (n.kindCode, n.detailCode, n.object?, n.otherMaster, n.tag, n.value)) =
      [(1, if mode = .shared then 1 else 0, some o, 0, tag, 0),
        (2, if reason = .ceiling then 1 else 0, some o, 0, 0, value),
        (3, match revoked with | .deadline => 0 | .supervisor => 1 | .barred => 2 | .offline => 3, some o, 0, 0, 0),
        (4, match ended with | .expired => 0 | .offline => 1 | .barred => 2, some o, 0, 0, 0),
        (5, 0, some o, 0, 0, 0), (6, 0, some o, 0, 0, 0), (7, standingCode standing, none, 0, 0, value),
        (8, 0, none, k.val, 0, 0), (9, 0, some o, k.val, 0, 0), (9, 1, none, k.val, 0, 0), (10, 0, none, 0, 0, 0)] := by
  have modes : (BitVec.ofBool (modeBit mode)).setWidth 3 = if mode = .shared then 1 else 0 := by cases mode <;> rfl
  have reasons : (BitVec.ofBool (yieldReasonBit reason)).setWidth 3 = if reason = .ceiling then 1 else 0 := by
    cases reason <;> rfl
  rw [← modes, ← reasons]
  cases revoked <;> cases ended <;> rfl

/-- Settles O54, one lemma for each word. -/
theorem registerWordsFields : Obligations.RegisterWordsFields := by
  refine ⟨⟨rfl, rfl, rfl, rfl, rfl, standingCode_standingOf, notice_fields⟩, fun r => ?_, fun index position r => ?_,
    masterView_fields, guardView_fields, fun s m => ?_, fun s m => ?_⟩
  · obtain ⟨valid, kind, state, objClass, contentionYield, length, holders, watchers, pending, reason, low⟩ :=
      objectView_word0 r
    obtain ⟨tenure, remaining, settle, rest⟩ := objectView_rest r
    refine ⟨valid, kind, state, objClass, contentionYield, length, holders, watchers, pending, ?_, low, tenure,
      fun y some => ?_, fun none => ?_, fun n some => ?_, fun none => ?_, rest⟩
    · rw [reason, yieldReasonField_iff]
    · rw [remaining, some]; rfl
    · rw [remaining, none]; rfl
    · rw [settle, some]; rfl
    · rw [settle, none]; rfl
  · obtain ⟨kind, indexed, positioned, word2, word3⟩ := lineEntryView_fields index position r
    refine ⟨kind, indexed, positioned, word2.trans (num_zero _ _), word3, fun e counted inside => ?_,
      fun outside => lineEntryView_of_none (entryAt_of_outside outside)⟩
    obtain ⟨valid, master, mode, priority, waits, low, remaining, rest⟩ :=
      lineEntryView_of_entry (index := index) (entryAt_of_inside counted inside)
    exact ⟨valid, master, mode, priority, waits, low, fun n some => by rw [remaining, some]; rfl,
      fun none => by rw [remaining, none]; rfl, rest⟩
  · obtain ⟨outcome, reason, echo, position, count, high⟩ := resultWord_fields (s.port m).result
    obtain ⟨score, quota, waits, supervisor, attention, overflow, nextSeq, top⟩ := selfStatus_fields s m
    obtain ⟨kind, indexed, positioned, others⟩ := viewSelectWord_fields (s.port m).viewSelect
    obtain ⟨divider, running, above⟩ := timeBaseStatus_fields s.timeBase
    exact ⟨outcome, reason, echo, position, count, high, score, quota, waits, supervisor, attention, overflow, nextSeq,
      top, kind, indexed, positioned, others, divider, running, above, num_zero _ _, rfl, rfl, rfl, rfl,
      fun _ => readWindow_of_beyond⟩
  · have event0 : s.readWindow m (wordAt 0x10) = eventHead0 (s.mst m).queue := rfl
    have event1 : s.readWindow m (wordAt 0x14) = eventHead1 (s.mst m).queue := rfl
    have log0 : s.readWindow m (wordAt 0x30) = logHead0 s.log := rfl
    have log1 : s.readWindow m (wordAt 0x34) = logHead1 s.log := rfl
    have log2 : s.readWindow m (wordAt 0x38) = logHead2 s.log := rfl
    rw [event0, event1, log0, log1, log2]
    refine ⟨fun empty => by rw [empty]; exact ⟨rfl, rfl⟩, fun e rest head => by rw [head]; exact eventHead_fields e rest,
      fun empty => by rw [empty]; exact ⟨rfl, rfl, rfl⟩, fun l rest head => by rw [head]; exact logHead_fields l rest⟩

end Sys2Proof.Machine
end

section
/-! PROOFS. The operand words read back, the window's writes and reads, the step and RESET (Chapters 10 and 11). -/

namespace Sys2Proof.Machine

/-! ### Operand words -/

/-- A number below the top of its field, placed lowest in a word. -/
theorem ofNat_eq_num {n k : Nat} (inside : k < 2 ^ n) : BitVec.ofNat 32 k = num n 0 k := by
  rw [num_zero, Nat.mod_eq_of_lt inside]

/-- A CLAIM's words, put together from their fields, read back as those fields (R26). -/
theorem claimWords_readBack (o : ObjNum) (shared wait : Bool) (priority : BitVec 4) (tag : BitVec 8)
    (limit : BitVec 16) :
    let w : Word := num 6 0 o.val ||| flag 8 shared ||| flag 9 wait ||| put 12 priority
    let a : Word := put 0 tag ||| put 16 limit
    claimMalformed w a = false ∧ objectField w = o ∧ claimMode w = (if shared then .shared else .exclusive) ∧
      claimWait w = wait ∧ claimPriority w = priority ∧ claimTag a = tag ∧ claimWaitLimit a = limit := by
  refine ⟨?_, ?_, ?_, ?_, ?_, ?_, ?_⟩
  · rw [claimMalformed, Bool.or_eq_false_iff, bitsOutside_eq_false_iff, bitsOutside_eq_false_iff]
    simp [num, flag, claimMask, claimMaskA, BitVec.and_or_distrib_right, put_and]
  · simp [objectField, num, flag, BitVec.extractLsb'_or]
  all_goals simp [claimMode, claimWait, claimPriority, claimTag, claimWaitLimit, num, flag, BitVec.extractLsb'_or]

theorem quotaWord_readBack (m : Master) (quota : BitVec 6) :
    let w : Word := num 3 0 m.val ||| put 8 quota
    (quotaMalformed w = true ↔ 32 < quota.toNat) ∧ masterField w = m ∧ quotaField w = quota := by
  intro w
  have outside : bitsOutside w quotaMask = false := by
    rw [bitsOutside_eq_false_iff]
    simp [w, num, quotaMask, BitVec.and_or_distrib_right, put_and]
  have field : quotaField w = quota := by simp [w, quotaField, num, BitVec.extractLsb'_or]
  refine ⟨?_, ?_, field⟩
  · rw [quotaMalformed, outside, field, Bool.false_or, decide_eq_true_iff, BitVec.lt_def]
    rfl
  · simp [w, masterField, num, BitVec.extractLsb'_or]

theorem timeBaseWord_readBack (divider : BitVec 16) (running : Bool) :
    let w : Word := put 0 divider ||| flag 16 running
    bitsOutside w timeBaseMask = false ∧ dividerField w = divider ∧
      runStateField w = (if running then .running else .stopped) := by
  refine ⟨?_, ?_, ?_⟩
  · rw [bitsOutside_eq_false_iff]
    simp [flag, timeBaseMask, BitVec.and_or_distrib_right, put_and]
  · simp [dividerField, flag, BitVec.extractLsb'_or]
  · simp [runStateField, flag]

/-- Settles O55: the words are put together from fields, one command's at a time. -/
theorem operandWordsReadBack : Obligations.OperandWordsReadBack := by
  refine ⟨fun o shared wait priority tag limit => ?_, fun m quota => ?_, fun divider running => ?_⟩
  · have lowest : tag.setWidth 32 = put 0 tag := (BitVec.shiftLeft_zero _).symm
    rw [ofNat_eq_num (n := 6) o.isLt, lowest]
    exact claimWords_readBack o shared wait priority tag limit
  · rw [ofNat_eq_num (n := 3) m.isLt]
    exact quotaWord_readBack m quota
  · have lowest : divider.setWidth 32 = put 0 divider := (BitVec.shiftLeft_zero _).symm
    rw [lowest]
    exact timeBaseWord_readBack divider running

/-! ### The step and RESET -/

/-- Settles O1: by the model's own step. -/
theorem stepRunsFront : Obligations.StepRunsFront := ⟨fun _ _ _ => rfl, fun _ => rfl⟩

/-- While RESET is asserted no attention line is (R121). -/
theorem State.atn_of_asserted {s : State} (asserted : s.resetAsserted = true) (m : Master) : s.atn m = false := by
  rw [State.atn, asserted, Bool.not_true, Bool.and_false]

/-- Settles O3: RESET leaves the records of `State.reset`. -/
theorem resetPlacesPowerOnValues : Obligations.ResetPlacesPowerOnValues := fun s =>
  ⟨{ s.powerOn with resetAsserted := true }, rfl, rfl, State.reset_obj, State.reset_mst, State.reset_port,
    State.reset_win, rfl, rfl, rfl, rfl, rfl, State.atn_of_asserted rfl, rfl⟩

/-- An event is no access of the bus. -/
theorem Occurs.not_busAccess {i : Instr} {s t : State} (occurs : Occurs i s t) : isBusAccess i = false := by
  cases occurs <;> rfl

/-- Of all that a row can do, an access does nothing while RESET is asserted (R155, R174). -/
theorem exec_busAccess_of_asserted {i : Instr} {s : State} (access : isBusAccess i = true)
    (asserted : s.resetAsserted = true) : exec i s = .next s.deasserted := by
  have notReleased (released : s.resetAsserted = false) : False := by rw [asserted] at released; cases released
  obtain ⟨t, step, does⟩ := exec_does i s
  rw [step]
  cases does with
  | nothing => rfl
  | reset => cases access
  | event occurs => rw [occurs.not_busAccess] at access; cases access
  | port released | command released | stored released | ignored released | read released | observed released =>
    exact (notReleased released).elim

/-- Settles O4: what holds off an access, what it does to the attention lines, and the release, in turn. -/
theorem resetHoldsOffAccesses : Obligations.ResetHoldsOffAccesses :=
  ⟨fun _ _ => exec_busAccess_of_asserted, fun _ m asserted => State.atn_of_asserted asserted m, fun _ => rfl⟩

/-! ### REGISTER_WRITE -/

/-- Settles O52: each command port's whole-word write is its command, by the model's own dispatch. -/
theorem wholeWordWriteIsCommand : Obligations.WholeWordWriteIsCommand := fun _ _ _ =>
  ⟨rfl, rfl, rfl, rfl, rfl, rfl, rfl, rfl, rfl, rfl, rfl, rfl, rfl, rfl, rfl, rfl, rfl, rfl, rfl, rfl, rfl⟩

theorem wordAt_byteOffset (offset : WindowOffset) : wordAt (byteOffset offset) = offset := by
  rw [wordAt, byteOffset, Nat.mul_div_cancel_left _ (by decide), BitVec.ofNat_toNat, BitVec.setWidth_eq]

/-- A write to a register that is not stored changes nothing (R157). -/
theorem writeRegister_of_other {m : Master} {offset : WindowOffset} {data : Word} {s : State}
    (notA : offset ≠ wordAt 0x04) (notB : offset ≠ wordAt 0x08) (notSelect : offset ≠ wordAt 0x1C) :
    writeRegister m offset data s = s := by
  have elsewhere {byte : Nat} (other : offset ≠ wordAt byte) : byteOffset offset ≠ byte := fun at' =>
    other (by rw [← at', wordAt_byteOffset])
  unfold writeRegister
  split
  next at' => exact absurd at' (elsewhere notA)
  next at' => exact absurd at' (elsewhere notB)
  next at' => exact absurd at' (elsewhere notSelect)
  next => rfl

theorem exec_registerWrite_of_register {m : Master} {offset : WindowOffset} {data : Word} {s : State}
    (released : s.resetAsserted = false) (register : isCommandOffset offset = false) :
    exec (.registerWrite m offset 15#4 data) s = .next (writeRegister m offset data s.acknowledged) := by
  obtain ⟨command, -⟩ | write := wholeWordWrite_cases m offset data s
  · rw [register] at command; cases command
  · exact write.trans (answerWindow_of_released released _)

theorem exec_registerWrite_of_partial {m : Master} {offset : WindowOffset} {byteEnables : BitVec 4} {data : Word}
    {s : State} (released : s.resetAsserted = false) (notWhole : byteEnables ≠ 15#4) :
    exec (.registerWrite m offset byteEnables data) s = .next s.acknowledged :=
  (if_neg (by rw [wholeWord, beq_iff_eq]; exact notWhole)).trans (answerWindow_of_released released _)

theorem viewKindCode_viewKindOf : ∀ c : BitVec 2, viewKindCode (viewKindOf c) = c := by decide

/-- VIEW_SELECT keeps its three fields of the word written (R162). -/
theorem viewSelectWord_viewSelectOf (data : Word) : viewSelectWord (viewSelectOf data) = data &&& 0x00033F0F#32 := by
  rw [viewSelectWord, viewSelectOf, viewKindCode_viewKindOf, put_extractLsb', put_extractLsb', put_extractLsb',
    ← BitVec.and_or_distrib_left, ← BitVec.and_or_distrib_left]
  rfl

/-- Settles O51: by the offset written, at a register or elsewhere. -/
theorem registerWriteStores : Obligations.RegisterWriteStores := fun _ data _ released =>
  ⟨exec_registerWrite_of_register released rfl, exec_registerWrite_of_register released rfl,
    ⟨viewSelectOf data, exec_registerWrite_of_register released rfl, viewSelectWord_viewSelectOf data⟩,
    fun _ notA notB notSelect register => by
      rw [exec_registerWrite_of_register released register, writeRegister_of_other notA notB notSelect],
    fun _ _ => exec_registerWrite_of_partial released⟩

/-! ### READ_VIEW_0 -/

theorem selectedView_of_object {s : State} {v : ViewSelect} (kind : v.kind = .object) :
    selectedView s v = objectView (s.obj v.index.toFin) := by rw [selectedView, kind]

theorem selectedView_of_lineEntry {s : State} {v : ViewSelect} (kind : v.kind = .lineEntry) :
    selectedView s v = lineEntryView v.index v.position (s.obj v.index.toFin) := by rw [selectedView, kind]

/-- An index of 8 and above names no master (R163, Table 10-5). -/
theorem selectedView_of_master {s : State} {v : ViewSelect} (kind : v.kind = .master) :
    (∀ k : Master, k.val = v.index.toNat → selectedView s v = masterView s k) ∧
      (8 ≤ v.index.toNat → selectedView s v = { word0 := 0x40000000#32, word1 := 0, word2 := 0, word3 := 0 }) := by
  unfold selectedView
  rw [kind]
  dsimp only
  refine ⟨fun k named => ?_, fun beyond => ?_⟩
  · rw [dif_pos (by omega)]
    simp only [← named]
  · rw [dif_neg (by omega)]
    rfl

/-- An index of 16 and above names no guard window (R163, Table 10-5). -/
theorem selectedView_of_guardWindow {s : State} {v : ViewSelect} (kind : v.kind = .guardWindow) :
    (∀ i : WindowNum, i.val = v.index.toNat → selectedView s v = guardView s i) ∧
      (16 ≤ v.index.toNat → selectedView s v = { word0 := 0x60000000#32, word1 := 0, word2 := 0, word3 := 0 }) := by
  unfold selectedView
  rw [kind]
  dsimp only
  refine ⟨fun i named => ?_, fun beyond => ?_⟩
  · rw [dif_pos (by omega)]
    simp only [← named]
  · rw [dif_neg (by omega)]
    rfl

theorem exec_readView0_of_released {r : WindowRead} {s : State} (released : s.resetAsserted = false) :
    exec (.readView0 r) s = .next (windowRead r s.acknowledged) := answerWindow_of_released released _

theorem windowRead_view0 (m : Master) (s : State) :
    windowRead { master := m, offset := wordAt 0x20 } s.acknowledged =
      { s.modPort m fun p => { p with snapshot := selectedView s (s.port m).viewSelect } with
        ack := true, deny := false, dataOut := some (selectedView s (s.port m).viewSelect).word0 } := rfl

theorem windowRead_of_other {m : Master} {offset : WindowOffset} (other : offset ≠ wordAt 0x20) (s : State) :
    windowRead { master := m, offset := offset } s.acknowledged =
      { s with ack := true, deny := false, dataOut := some (s.readWindow m offset) } := by
  have notView0 : (offset == view0Offset) = false := beq_eq_false_iff_ne.mpr other
  rw [windowRead]
  dsimp only
  rw [notView0]
  rfl

theorem takeSnapshot_snapshot (m : Master) (s : State) :
    ((takeSnapshot m s).port m).snapshot = selectedView s (s.port m).viewSelect := by
  rw [takeSnapshot, State.modPort_port_self]

/-- Settles O53: the snapshot is the selected view, and the words after the first are read from it. -/
theorem readView0TakesSnapshot : Obligations.ReadView0TakesSnapshot := by
  intro m s released
  refine ⟨⟨_, _, (exec_readView0_of_released released).trans (congrArg Host.Outcome.next (windowRead_view0 m s)), rfl, rfl,
    rfl, ?_, ?_, ?_, selectedView_of_object, selectedView_of_lineEntry, selectedView_of_master,
    selectedView_of_guardWindow⟩, fun offset other => ?_⟩
  · exact congrArg Snapshot.word1 (takeSnapshot_snapshot m s)
  · exact congrArg Snapshot.word2 (takeSnapshot_snapshot m s)
  · exact congrArg Snapshot.word3 (takeSnapshot_snapshot m s)
  · rw [exec_readView0_of_released released, windowRead_of_other other]

end Sys2Proof.Machine
end
